-- ==== Sys2Proof/Word.lean ====
section
/-! DEFINITION. The bit-vector types of the block (spec/00_scope.md R8, R9, R11): bytes, 32-bit words, the 64-bit byte
counter and the 64-byte block. Arithmetic on them is BitVec's own, which wraps (R10). -/

namespace Sys2Proof

/-- A byte, 8 bits (R11). -/
abbrev Byte := BitVec 8

/-- WORD: a state word, schedule word, round constant or working variable, 32 bits (R8). -/
abbrev Word := BitVec 32

/-- CNT and the length field, 64 bits (R8). -/
abbrev Count := BitVec 64

/-- BLOCK: 64 bytes, consumed by one compression (R8). -/
abbrev Block := Vector Byte 64

end Sys2Proof
end

