-- ==== Sys2Proof/Syntax.lean ====
section
/-! DEFINITION. Commands as the port carries them and instructions as the decoder reads them (spec/30_encoding.md), with
the pseudo-instructions and the payload notation of the assembler (R92, R93). -/

namespace Sys2Proof

/-- ALG: the two algorithms of the block (R3, R83). -/
inductive Alg where
  /-- ALG = 0: CTX_SHA and the SHA-256 datapath. -/
  | sha256
  /-- ALG = 1: CTX_MD5 and the MD5 datapath. -/
  | md5
deriving DecidableEq, Repr

/-- OP: the five operations with a legal code (R82). -/
inductive Op where
  | init
  | update
  | digest
  | hexdigest
  | copy
deriving DecidableEq, Repr

/-- A command as presented to the port: one 32-bit word and a payload of any length (R80). -/
structure Command where
  /-- CMDWORD. -/
  word : BitVec 32
  /-- PAYLOAD, byte 0 first. -/
  payload : List Byte
deriving DecidableEq, Repr

/-- The ten instructions, one per row of the opcode map (R89). A slot operand is a slot index (R84, R85); the payload is
an operand of UPDATE only (R87). -/
inductive Instr where
  /-- SHA256.INIT (R206). -/
  | sha256Init (slot : Nat)
  /-- MD5.INIT (R207). -/
  | md5Init (slot : Nat)
  /-- SHA256.UPDATE (R208). -/
  | sha256Update (slot : Nat) (data : List Byte)
  /-- MD5.UPDATE (R209). -/
  | md5Update (slot : Nat) (data : List Byte)
  /-- SHA256.DIGEST (R210). -/
  | sha256Digest (slot : Nat)
  /-- MD5.DIGEST (R211). -/
  | md5Digest (slot : Nat)
  /-- SHA256.HEXDIGEST (R212). -/
  | sha256Hexdigest (slot : Nat)
  /-- MD5.HEXDIGEST (R213). -/
  | md5Hexdigest (slot : Nat)
  /-- SHA256.COPY (R214). -/
  | sha256Copy (dst src : Nat)
  /-- MD5.COPY (R215). -/
  | md5Copy (dst src : Nat)
deriving DecidableEq, Repr

/-- `<bytes>` of the assembler notation (R92): literal bytes (of a text or of hex pairs), repetition, concatenation. -/
inductive AsmBytes where
  | lit (bytes : List Byte)
  | times (bytes : AsmBytes) (count : Nat)
  | append (left right : AsmBytes)
deriving DecidableEq, Repr

/-- The pseudo-instructions (R93). -/
inductive Pseudo where
  /-- `<alg>.new <slot>`. -/
  | new (alg : Alg) (slot : Nat)
  /-- `<alg>.new <slot>, <bytes>`. -/
  | newSeeded (alg : Alg) (slot : Nat) (data : AsmBytes)
  /-- `<alg>.hexof <slot>, <bytes>`. -/
  | hexof (alg : Alg) (slot : Nat) (data : AsmBytes)
deriving DecidableEq, Repr

end Sys2Proof
end

