-- ==== Sys2Proof/WellFormed.lean ====
section
/-! DEFINITION. When an instruction can be encoded: its slot operands fit the 8-bit SLOT and SRC fields
(spec/30_encoding.md R84, R85; spec/20_memory.md R61). A payload may have any length (R87), so it carries no check. -/

namespace Sys2Proof

/-- A slot index fits an 8-bit field: 0..255 (R61). -/
def slotFits (n : Nat) : Bool := n < 256

/-- The instruction has an encoding: every slot operand fits its field. -/
def Instr.wf : Instr → Bool
  | .sha256Init slot => slotFits slot
  | .md5Init slot => slotFits slot
  | .sha256Update slot _ => slotFits slot
  | .md5Update slot _ => slotFits slot
  | .sha256Digest slot => slotFits slot
  | .md5Digest slot => slotFits slot
  | .sha256Hexdigest slot => slotFits slot
  | .md5Hexdigest slot => slotFits slot
  | .sha256Copy dst src => slotFits dst && slotFits src
  | .md5Copy dst src => slotFits dst && slotFits src

end Sys2Proof
end

