-- ==== Sys2Proof/Decode.lean ====
section
/-! DEFINITION. The command decoder, total on any word and any payload (spec/30_encoding.md R88), then the encoder, the
opcode map (R89) and the pseudo-instructions' expansions (R93). -/

namespace Sys2Proof

/-! ## The fields of a command word (R81) -/

/-- OP, bits 3:0. -/
def opField (w : BitVec 32) : BitVec 4 := w.extractLsb' 0 4

/-- ALG, bit 4. -/
def algField (w : BitVec 32) : BitVec 1 := w.extractLsb' 4 1

/-- RSV0, bits 7:5. -/
def rsv0Field (w : BitVec 32) : BitVec 3 := w.extractLsb' 5 3

/-- SLOT, bits 15:8. -/
def slotField (w : BitVec 32) : BitVec 8 := w.extractLsb' 8 8

/-- SRC, bits 23:16. -/
def srcField (w : BitVec 32) : BitVec 8 := w.extractLsb' 16 8

/-- RSV1, bits 31:24. -/
def rsv1Field (w : BitVec 32) : BitVec 8 := w.extractLsb' 24 8

/-- The bit diagram of R81: a word from its fields, RSV1 leftmost. -/
def packFields (rsv1 src slot : BitVec 8) (rsv0 : BitVec 3) (alg : BitVec 1) (op : BitVec 4) : BitVec 32 :=
  rsv1 ++ src ++ slot ++ rsv0 ++ alg ++ op

/-! ## Codes (R82, R83) -/

/-- The OP code of an operation (R82). -/
def Op.code : Op → BitVec 4
  | .init => 0x1
  | .update => 0x2
  | .digest => 0x3
  | .hexdigest => 0x4
  | .copy => 0x5

/-- The operation of an OP code; codes 0x0 and 0x6..0xF have none (R82). -/
def Op.ofCode (c : BitVec 4) : Option Op :=
  if c = 0x1 then some .init
  else if c = 0x2 then some .update
  else if c = 0x3 then some .digest
  else if c = 0x4 then some .hexdigest
  else if c = 0x5 then some .copy
  else none

/-- The ALG bit of an algorithm (R83). -/
def Alg.bit : Alg → BitVec 1
  | .sha256 => 0
  | .md5 => 1

/-- The algorithm of an ALG bit; both values are legal (R83). -/
def Alg.ofBit (b : BitVec 1) : Alg := if b = 0 then .sha256 else .md5

/-! ## Decoding (R88) -/

/-- Why a command is ILLEGAL_COMMAND (R253). The causes carry one status code and have no order among themselves (R88);
when several apply, the decoder names the first of its own text. -/
inductive IllegalCause where
  /-- OP is 0x0 or 0x6..0xF. -/
  | reservedOp
  /-- RSV0 or RSV1 is not zero. -/
  | reservedBits
  /-- SRC is not zero on a command other than COPY. -/
  | sourceNotZero
  /-- The payload is not empty on a command other than UPDATE. -/
  | payloadNotEmpty
deriving DecidableEq, Repr

/-- What decoding yields: an instruction, or ILLEGAL_COMMAND with its cause. -/
inductive Decoded where
  | instr (i : Instr)
  | illegalCommand (why : IllegalCause)
deriving DecidableEq, Repr

/-- The instruction of an operation and an algorithm with its operands (R88, the `case` of the pseudocode). -/
def instrOf (op : Op) (alg : Alg) (slot src : Nat) (payload : List Byte) : Instr :=
  match op, alg with
  | .init, .sha256 => .sha256Init slot
  | .init, .md5 => .md5Init slot
  | .update, .sha256 => .sha256Update slot payload
  | .update, .md5 => .md5Update slot payload
  | .digest, .sha256 => .sha256Digest slot
  | .digest, .md5 => .md5Digest slot
  | .hexdigest, .sha256 => .sha256Hexdigest slot
  | .hexdigest, .md5 => .md5Hexdigest slot
  | .copy, .sha256 => .sha256Copy slot src
  | .copy, .md5 => .md5Copy slot src

/-- `decode(w, p)` (R88). -/
def decode (c : Command) : Decoded :=
  match Op.ofCode (opField c.word) with
  | none => .illegalCommand .reservedOp
  | some op =>
    if rsv0Field c.word ≠ 0 ∨ rsv1Field c.word ≠ 0 then .illegalCommand .reservedBits
    else if op ≠ .copy ∧ srcField c.word ≠ 0 then .illegalCommand .sourceNotZero
    else if op ≠ .update ∧ c.payload ≠ [] then .illegalCommand .payloadNotEmpty
    else .instr (instrOf op (Alg.ofBit (algField c.word)) (slotField c.word).toNat (srcField c.word).toNat c.payload)

/-- The command a table word stands for, bit 0 its least significant bit: the low `nbits` bits of `w`, the rest of the
32-bit word zero, no payload (log entry 8). -/
def tableCommand (nbits w : Nat) : Command := ⟨BitVec.ofNat 32 (w % 2 ^ nbits), []⟩

/-- The instruction the decoder reads from a table word; none where it is ILLEGAL_COMMAND, or where the bits do not fit
the 32-bit command word (R91). -/
def decodeTableWord (nbits w : Nat) : Option Instr :=
  if w % 2 ^ nbits < 2 ^ 32 then
    match decode (tableCommand nbits w) with
    | .instr i => some i
    | .illegalCommand _ => none
  else none

/-! ## Encoding (R89) -/

/-- A command word with its reserved fields zero (R86). -/
def commandWord (op : Op) (alg : Alg) (slot src : Nat) : BitVec 32 :=
  packFields 0 (BitVec.ofNat 8 src) (BitVec.ofNat 8 slot) 0 alg.bit op.code

/-- The command of a well-formed instruction (R89; SRC is 0 but for COPY, R85; a payload on UPDATE only, R87). -/
def encode : Instr → Command
  | .sha256Init slot => ⟨commandWord .init .sha256 slot 0, []⟩
  | .md5Init slot => ⟨commandWord .init .md5 slot 0, []⟩
  | .sha256Update slot data => ⟨commandWord .update .sha256 slot 0, data⟩
  | .md5Update slot data => ⟨commandWord .update .md5 slot 0, data⟩
  | .sha256Digest slot => ⟨commandWord .digest .sha256 slot 0, []⟩
  | .md5Digest slot => ⟨commandWord .digest .md5 slot 0, []⟩
  | .sha256Hexdigest slot => ⟨commandWord .hexdigest .sha256 slot 0, []⟩
  | .md5Hexdigest slot => ⟨commandWord .hexdigest .md5 slot 0, []⟩
  | .sha256Copy dst src => ⟨commandWord .copy .sha256 dst src, []⟩
  | .md5Copy dst src => ⟨commandWord .copy .md5 dst src, []⟩

/-! ## The opcode map as the spec tabulates it (R89) -/

/-- A row of the opcode map: mnemonic, match and mask, and whether the row takes a payload (R87). -/
structure OpcodeRow where
  mnemonic : String
  pattern : BitVec 32
  mask : BitVec 32
  takesPayload : Bool
deriving DecidableEq, Repr

/-- The opcode map, in the order of R89. -/
def opcodeTable : List OpcodeRow :=
  [⟨"SHA256.INIT", 0x00000001, 0xFFFF00FF, false⟩,
   ⟨"MD5.INIT", 0x00000011, 0xFFFF00FF, false⟩,
   ⟨"SHA256.UPDATE", 0x00000002, 0xFFFF00FF, true⟩,
   ⟨"MD5.UPDATE", 0x00000012, 0xFFFF00FF, true⟩,
   ⟨"SHA256.DIGEST", 0x00000003, 0xFFFF00FF, false⟩,
   ⟨"MD5.DIGEST", 0x00000013, 0xFFFF00FF, false⟩,
   ⟨"SHA256.HEXDIGEST", 0x00000004, 0xFFFF00FF, false⟩,
   ⟨"MD5.HEXDIGEST", 0x00000014, 0xFFFF00FF, false⟩,
   ⟨"SHA256.COPY", 0x00000005, 0xFF0000FF, false⟩,
   ⟨"MD5.COPY", 0x00000015, 0xFF0000FF, false⟩]

/-- A word matches a row exactly when `(w AND mask) == match` (R89). -/
def OpcodeRow.hits (row : OpcodeRow) (w : BitVec 32) : Bool := w &&& row.mask == row.pattern

/-- The mnemonic of an instruction, as the opcode map spells it. -/
def Instr.mnemonic : Instr → String
  | .sha256Init _ => "SHA256.INIT"
  | .md5Init _ => "MD5.INIT"
  | .sha256Update _ _ => "SHA256.UPDATE"
  | .md5Update _ _ => "MD5.UPDATE"
  | .sha256Digest _ => "SHA256.DIGEST"
  | .md5Digest _ => "MD5.DIGEST"
  | .sha256Hexdigest _ => "SHA256.HEXDIGEST"
  | .md5Hexdigest _ => "MD5.HEXDIGEST"
  | .sha256Copy _ _ => "SHA256.COPY"
  | .md5Copy _ _ => "MD5.COPY"

/-- The ALG an instruction addresses (R83). -/
def Instr.alg : Instr → Alg
  | .sha256Init _ | .sha256Update _ _ | .sha256Digest _ | .sha256Hexdigest _ | .sha256Copy _ _ => .sha256
  | .md5Init _ | .md5Update _ _ | .md5Digest _ | .md5Hexdigest _ | .md5Copy _ _ => .md5

/-- The SLOT operand: the addressed slot, the destination for COPY (R84). -/
def Instr.slot : Instr → Nat
  | .sha256Init slot | .sha256Update slot _ | .sha256Digest slot | .sha256Hexdigest slot | .sha256Copy slot _ => slot
  | .md5Init slot | .md5Update slot _ | .md5Digest slot | .md5Hexdigest slot | .md5Copy slot _ => slot

/-- The SRC operand, which only COPY has (R85). -/
def Instr.source : Instr → Option Nat
  | .sha256Copy _ src | .md5Copy _ src => some src
  | .sha256Init _ | .sha256Update _ _ | .sha256Digest _ | .sha256Hexdigest _ => none
  | .md5Init _ | .md5Update _ _ | .md5Digest _ | .md5Hexdigest _ => none

/-! ## Payload notation and pseudo-instructions (R92, R93); their text is in Machine/Assembler.lean -/

/-- The bytes a `<bytes>` expression stands for (R92). -/
def AsmBytes.eval : AsmBytes → List Byte
  | .lit bytes => bytes
  | .times bytes count => (List.replicate count bytes.eval).flatten
  | .append left right => left.eval ++ right.eval

/-- The expansion of a pseudo-instruction, run in order (R93). -/
def Pseudo.expand : Pseudo → List Instr
  | .new alg slot => [instrOf .init alg slot 0 []]
  | .newSeeded alg slot data => [instrOf .init alg slot 0 [], instrOf .update alg slot 0 data.eval]
  | .hexof alg slot data =>
    [instrOf .init alg slot 0 [], instrOf .update alg slot 0 data.eval, instrOf .hexdigest alg slot 0 []]

end Sys2Proof
end

