-- ==== Sys2Proof/Config.lean ====
section
/-! DEFINITION. What one build of the block fixes and the spec leaves OPEN (spec/00_scope.md R8, 92_eei_decisions.md D2,
93_implementation_defined.md U7): the two slot counts. They are opaque, so no proof can use a value of theirs. -/

namespace Sys2Proof

/-- The highest SHA-256 slot index of this build; any value 0..255 (log entry 1). -/
opaque Config.lastSlotSha : Fin 256

/-- The highest MD5 slot index of this build; any value 0..255, independent of `lastSlotSha` (log entry 1). -/
opaque Config.lastSlotMd5 : Fin 256

/-- NSLOT_SHA, between 1 and 256 (R8). -/
def Config.nslotSha : Nat := Config.lastSlotSha.val + 1

/-- NSLOT_MD5, between 1 and 256 (R8). -/
def Config.nslotMd5 : Nat := Config.lastSlotMd5.val + 1

end Sys2Proof
end

