-- ==== Sys2Proof/Machine/State.lean ====
section
/-! DEFINITION. The state of the block as plain data (spec/10_state.md), the reasons a step could stop, and the state after
reset (R32). -/

namespace Sys2Proof.Machine

/-- The SHA-256 state vector H[0..7] (R21). -/
structure ShaVec where
  (h0 h1 h2 h3 h4 h5 h6 h7 : Word)
deriving DecidableEq, Repr

/-- The MD5 state vector V[0..3] (R21). -/
structure Md5Vec where
  (v0 v1 v2 v3 : Word)
deriving DecidableEq, Repr

/-- The fields of a valid context slot with state vector type `SV` (R20). -/
structure Ctx (SV : Type) where
  /-- The state vector SV: H[0..7] or V[0..3]. -/
  sv : SV
  /-- BUF[0 .. BLEN), the pending bytes; BUF[BLEN..63] holds no value (R26, D20, log entry 3). -/
  buf : List Byte
  /-- CNT, the total byte counter (R27). -/
  cnt : Count
deriving DecidableEq, Repr

/-- BLEN: how many bytes of BUF are occupied (R26). -/
abbrev Ctx.blen {SV : Type} (c : Ctx SV) : Nat := c.buf.length

/-- A context slot file: entry s is slot s; `none` is VALID = 0, when the slot's other fields hold no value (R25, log
entry 2); its length is NSLOT (R20). -/
abbrev SlotFile (SV : Type) := List (Option (Ctx SV))

/-- RSP: the status byte and the data bytes (R29, R94). -/
structure Response where
  /-- STATUS: the code in bits 3:0, bits 7:4 zero. -/
  status : Byte
  /-- DATA. -/
  data : List Byte
deriving DecidableEq, Repr

/-- What reaches the block from outside, in the order the port accepts it. -/
inductive PortInput where
  /-- A host presents a command (R80, R268). -/
  | command (c : Command)
  /-- The platform asserts reset, between commands (R280, R282). -/
  | reset
deriving DecidableEq, Repr

/-- The whole state of the block. -/
structure State where
  /-- CTX_SHA (R20). -/
  ctxSha : SlotFile ShaVec
  /-- CTX_MD5 (R20). -/
  ctxMd5 : SlotFile Md5Vec
  /-- The commands and resets presented and not yet performed, next first: the head command is CMD (R29); what follows is
  the hosts' command sequence, a parameter of the model (R33, R268, log entry 5). -/
  inputs : List PortInput
  /-- RSP, the last response, or none when there is no response pending (R29, R32, log entry 4). -/
  rsp : Option Response
deriving DecidableEq, Repr

/-- The reasons a step stops with a fault: none. An error of the block is a status code in a response, and no other failure
exists (R250, R256), so no constructor is needed and nothing raises one. -/
inductive Fault where
deriving DecidableEq, Repr

/-- The reasons a step has no meaning for an instruction. -/
inductive Refusal where
  /-- Raised by an arm of exec whose instruction has no meaning yet; no arm raises it. Safe: it only stops a run. -/
  | notModelled (mnemonic : String)
deriving DecidableEq, Repr

/-- The state right after reset (R32): every slot of both files invalid, no command and no response pending. The slot counts
are the build's own (R8). -/
def State.reset : State where
  ctxSha := List.replicate Config.nslotSha none
  ctxMd5 := List.replicate Config.nslotMd5 none
  inputs := []
  rsp := none

end Sys2Proof.Machine
end

