-- ==== Sys2Proof/Machine/Flags.lean ====
section
/-! DEFINITION. The block has no flags and no condition codes (spec/10_state.md R24); what stands in their place is the status
code of a response (spec/60_exceptions.md R251, spec/30_encoding.md R94), defined here. -/

namespace Sys2Proof.Machine

/-- The status codes with a name (R251). Codes 0x5..0xF are reserved and never produced (U6). -/
inductive Status where
  /-- 0x0: the command succeeded. -/
  | ok
  /-- 0x1: reserved for a host binding; the block never raises it (R252). -/
  | invalidInputKind
  /-- 0x2: the command does not decode (R253). -/
  | illegalCommand
  /-- 0x3: SLOT, or SRC of a COPY, names no slot (R254). -/
  | badSlot
  /-- 0x4: the slot read has VALID = 0 (R255). -/
  | noContext
deriving DecidableEq, Repr

/-- STATUS[3:0] (R251). -/
def Status.code : Status → BitVec 4
  | .ok => 0x0
  | .invalidInputKind => 0x1
  | .illegalCommand => 0x2
  | .badSlot => 0x3
  | .noContext => 0x4

/-- The status byte: bits 7:4 are always 0 (R94). -/
def Status.byte (st : Status) : Byte := 0#4 ++ st.code

end Sys2Proof.Machine
end

