-- ==== Sys2Proof/Machine/Operands.lean ====
section
/-! DEFINITION. The operand forms of the block: a slot index of one algorithm's file, written (it must name a slot) or read (it
must name a valid slot). These are the checks of spec/60_exceptions.md R254, R255 in the order of R257. A payload operand is a
byte sequence as it stands (spec/30_encoding.md R87). -/

namespace Sys2Proof.Machine

/-- A slot operand that need only exist: BAD_SLOT when the index is >= NSLOT (R61, R254). -/
def checkSlot {SV : Type} (file : SlotFile SV) (n : Nat) : Except Status Unit :=
  if n < file.length then .ok () else .error .badSlot

/-- A slot operand that is read: BAD_SLOT when the index is >= NSLOT, else NO_CONTEXT when VALID = 0, else the context
(R254, R255, R257). -/
def readSlot {SV : Type} (file : SlotFile SV) (n : Nat) : Except Status (Ctx SV) :=
  match file[n]? with
  | none => .error .badSlot
  | some none => .error .noContext
  | some (some c) => .ok c

end Sys2Proof.Machine
end

