-- ==== Sys2Proof/Machine/Bytes.lean ====
section
/-! DEFINITION. Word and byte primitives: shifts and rotations (spec/00_scope.md R10), byte packing (R11, spec/20_memory.md
R64-R66) and the hex formatter (spec/42_commands.md R205, spec/20_memory.md R68). -/

namespace Sys2Proof.Machine

/-- SHR(x, n): zeros shifted in (R10). -/
def shr (x : Word) (n : Nat) : Word := x >>> n

/-- ROTR(x, n), for 0 < n < 32 (R10). -/
def rotr (x : Word) (n : Nat) : Word := (x >>> n) ||| (x <<< (32 - n))

/-- ROTL(x, n), for 0 < n < 32 (R10). -/
def rotl (x : Word) (n : Nat) : Word := (x <<< n) ||| (x >>> (32 - n))

/-- BE32: b0 is the most significant byte (R11). -/
def be32 (b0 b1 b2 b3 : Byte) : Word := b0 ++ b1 ++ b2 ++ b3

/-- LE32: b0 is the least significant byte (R11). -/
def le32 (b0 b1 b2 b3 : Byte) : Word := b3 ++ b2 ++ b1 ++ b0

/-- The inverse of BE32, most significant byte first (R11). -/
def bytesBE32 (w : Word) : List Byte :=
  [w.extractLsb' 24 8, w.extractLsb' 16 8, w.extractLsb' 8 8, w.extractLsb' 0 8]

/-- The inverse of LE32, least significant byte first (R11). -/
def bytesLE32 (w : Word) : List Byte :=
  [w.extractLsb' 0 8, w.extractLsb' 8 8, w.extractLsb' 16 8, w.extractLsb' 24 8]

/-- Eight bytes of a 64-bit value, least significant first (R11). -/
def bytesLE64 (n : Count) : List Byte :=
  [n.extractLsb' 0 8, n.extractLsb' 8 8, n.extractLsb' 16 8, n.extractLsb' 24 8,
   n.extractLsb' 32 8, n.extractLsb' 40 8, n.extractLsb' 48 8, n.extractLsb' 56 8]

/-- Eight bytes of a 64-bit value, most significant first (R11). -/
def bytesBE64 (n : Count) : List Byte :=
  [n.extractLsb' 56 8, n.extractLsb' 48 8, n.extractLsb' 40 8, n.extractLsb' 32 8,
   n.extractLsb' 24 8, n.extractLsb' 16 8, n.extractLsb' 8 8, n.extractLsb' 0 8]

/-- NIB(v): the ASCII code of a hex digit, lower case (R68, R205). -/
def nib (v : BitVec 4) : Byte :=
  if v < 10 then 0x30 + v.setWidth 8 else 0x61 + (v.setWidth 8 - 10)

/-- HEX(bs): two characters a byte, high nibble first (R68, R205). -/
def hex (bs : List Byte) : List Byte :=
  bs.flatMap fun b => [nib (b.extractLsb' 4 4), nib (b.extractLsb' 0 4)]

end Sys2Proof.Machine
end

