-- ==== Sys2Proof/Machine/Rom.lean ====
section
/-! DEFINITION. The constant tables of the block (spec/10_state.md R30): read-only, written by no command and by no reset, the
same for every slot. Their contents are those the spec tabulates. -/

namespace Sys2Proof.Machine

/-- IV_SHA, the state vector SHA256.INIT loads (R100). -/
def ivSha : ShaVec :=
  ⟨0x6a09e667, 0xbb67ae85, 0x3c6ef372, 0xa54ff53a,
    0x510e527f, 0x9b05688c, 0x1f83d9ab, 0x5be0cd19⟩

/-- One row of a table of round constants as the spec prints it: the entries at offsets +0 to +7 (R101, R151). -/
def tableRow (e0 e1 e2 e3 e4 e5 e6 e7 : Word) : Vector Word 8 := #v[e0, e1, e2, e3, e4, e5, e6, e7]

/-- K, the SHA-256 round constants, row by row of the spec's table (R101). -/
def kRom : Vector Word 64 :=
  tableRow 0x428a2f98 0x71374491 0xb5c0fbcf 0xe9b5dba5 0x3956c25b 0x59f111f1 0x923f82a4 0xab1c5ed5 ++
  tableRow 0xd807aa98 0x12835b01 0x243185be 0x550c7dc3 0x72be5d74 0x80deb1fe 0x9bdc06a7 0xc19bf174 ++
  tableRow 0xe49b69c1 0xefbe4786 0x0fc19dc6 0x240ca1cc 0x2de92c6f 0x4a7484aa 0x5cb0a9dc 0x76f988da ++
  tableRow 0x983e5152 0xa831c66d 0xb00327c8 0xbf597fc7 0xc6e00bf3 0xd5a79147 0x06ca6351 0x14292967 ++
  tableRow 0x27b70a85 0x2e1b2138 0x4d2c6dfc 0x53380d13 0x650a7354 0x766a0abb 0x81c2c92e 0x92722c85 ++
  tableRow 0xa2bfe8a1 0xa81a664b 0xc24b8b70 0xc76c51a3 0xd192e819 0xd6990624 0xf40e3585 0x106aa070 ++
  tableRow 0x19a4c116 0x1e376c08 0x2748774c 0x34b0bcb5 0x391c0cb3 0x4ed8aa4a 0x5b9cca4f 0x682e6ff3 ++
  tableRow 0x748f82ee 0x78a5636f 0x84c87814 0x8cc70208 0x90befffa 0xa4506ceb 0xbef9a3f7 0xc67178f2

/-- IV_MD5, the state vector MD5.INIT loads (R150). -/
def ivMd5 : Md5Vec := ⟨0x67452301, 0xefcdab89, 0x98badcfe, 0x10325476⟩

/-- T, the MD5 round constants, row by row of the spec's table, which is normative over its generator (R151, R152). -/
def tRom : Vector Word 64 :=
  tableRow 0xd76aa478 0xe8c7b756 0x242070db 0xc1bdceee 0xf57c0faf 0x4787c62a 0xa8304613 0xfd469501 ++
  tableRow 0x698098d8 0x8b44f7af 0xffff5bb1 0x895cd7be 0x6b901122 0xfd987193 0xa679438e 0x49b40821 ++
  tableRow 0xf61e2562 0xc040b340 0x265e5a51 0xe9b6c7aa 0xd62f105d 0x02441453 0xd8a1e681 0xe7d3fbc8 ++
  tableRow 0x21e1cde6 0xc33707d6 0xf4d50d87 0x455a14ed 0xa9e3e905 0xfcefa3f8 0x676f02d9 0x8d2a4c8a ++
  tableRow 0xfffa3942 0x8771f681 0x6d9d6122 0xfde5380c 0xa4beea44 0x4bdecfa9 0xf6bb4b60 0xbebfbc70 ++
  tableRow 0x289b7ec6 0xeaa127fa 0xd4ef3085 0x04881d05 0xd9d4d039 0xe6db99e5 0x1fa27cf8 0xc4ac5665 ++
  tableRow 0xf4292244 0x432aff97 0xab9423a7 0xfc93a039 0x655b59c3 0x8f0ccc92 0xffeff47d 0x85845dd1 ++
  tableRow 0x6fa87e4f 0xfe2ce6e0 0xa3014314 0x4e0811a1 0xf7537e82 0xbd3af235 0x2ad7d2bb 0xeb86d391

/-- SH, the MD5 rotation amounts, 5 bits each, four values repeated in each band (R153). -/
def shRom : Vector (Fin 32) 64 :=
  #v[7, 12, 17, 22, 7, 12, 17, 22, 7, 12, 17, 22, 7, 12, 17, 22,
    5, 9, 14, 20, 5, 9, 14, 20, 5, 9, 14, 20, 5, 9, 14, 20,
    4, 11, 16, 23, 4, 11, 16, 23, 4, 11, 16, 23, 4, 11, 16, 23,
    6, 10, 15, 21, 6, 10, 15, 21, 6, 10, 15, 21, 6, 10, 15, 21]

/-- MIDX, the MD5 message-word index of each round, 4 bits each, one band a line (R158). -/
def midxRom : Vector (Fin 16) 64 :=
  #v[0, 1, 2, 3, 4, 5, 6, 7, 8, 9, 10, 11, 12, 13, 14, 15,
    1, 6, 11, 0, 5, 10, 15, 4, 9, 14, 3, 8, 13, 2, 7, 12,
    5, 8, 11, 14, 1, 4, 7, 10, 13, 0, 3, 6, 9, 12, 15, 2,
    0, 7, 14, 5, 12, 3, 10, 1, 8, 15, 6, 13, 4, 11, 2, 9]

end Sys2Proof.Machine
end

