-- ==== Sys2Proof/Machine/Md5.lean ====
section
/-! DEFINITION. The MD5 datapath (spec/41_md5.md): the four band functions, the 64-round compression function and the digest
serialization. -/

namespace Sys2Proof.Machine

/-! ## Band functions -/

/-- F, band 0 (R154). -/
def bandF (x y z : Word) : Word := (x &&& y) ||| (~~~x &&& z)

/-- G, band 1 (R155). -/
def bandG (x y z : Word) : Word := (x &&& z) ||| (y &&& ~~~z)

/-- H, band 2 (R156). -/
def bandH (x y z : Word) : Word := x ^^^ y ^^^ z

/-- I, band 3 (R157). -/
def bandI (x y z : Word) : Word := y ^^^ (x ||| ~~~z)

/-- The function of round i's band (R158). -/
def bandFn (i : Nat) (x y z : Word) : Word :=
  if i < 16 then bandF x y z
  else if i < 32 then bandG x y z
  else if i < 48 then bandH x y z
  else bandI x y z

/-! ## Compression function -/

/-- X[0..15]: a block as sixteen little-endian words (R66, R159). -/
def unpackLE (blk : Block) : Vector Word 16 :=
  Vector.ofFn fun j : Fin 16 =>
    le32 blk[4 * j.val] blk[4 * j.val + 1] blk[4 * j.val + 2] blk[4 * j.val + 3]

/-- The working variables A..D (R31, R160). -/
structure Md5Work where
  (a b c d : Word)
deriving DecidableEq, Repr

/-- The working variables at the start of a compression (R160). -/
def md5Load (v : Md5Vec) : Md5Work := ⟨v.v0, v.v1, v.v2, v.v3⟩

/-- Round i; the four assignments are simultaneous (R161). -/
def md5Round (x : Vector Word 16) (i : Fin 64) (v : Md5Work) : Md5Work :=
  let tmp := v.a + bandFn i.val v.b v.c v.d + tRom[i] + x[midxRom[i]]
  ⟨v.d, v.b + rotl tmp shRom[i].val, v.b, v.c⟩

/-- The working variables after rounds 0 .. n-1 (R161). -/
def md5Rounds (x : Vector Word 16) (start : Md5Work) : (n : Nat) → n ≤ 64 → Md5Work
  | 0, _ => start
  | n + 1, _ => md5Round x ⟨n, by omega⟩ (md5Rounds x start n (by omega))

/-- The final addition (R162). -/
def md5Add (v : Md5Vec) (r : Md5Work) : Md5Vec := ⟨v.v0 + r.a, v.v1 + r.b, v.v2 + r.c, v.v3 + r.d⟩

/-- MD5_COMPRESS (R163). -/
def md5Compress (v : Md5Vec) (blk : Block) : Md5Vec :=
  md5Add v (md5Rounds (unpackLE blk) (md5Load v) 64 (Nat.le_refl 64))

/-! ## Digest -/

/-- MD5_OUT: the four state words as little-endian bytes, in order (R66, R166). -/
def md5Out (v : Md5Vec) : List Byte :=
  bytesLE32 v.v0 ++ bytesLE32 v.v1 ++ bytesLE32 v.v2 ++ bytesLE32 v.v3

end Sys2Proof.Machine
end

