-- ==== Sys2Proof/Machine/Sha256.lean ====
section
/-! DEFINITION. The SHA-256 datapath (spec/40_sha256.md): the six logic functions, the message-schedule expander, the 64-round
compression function and the digest serialization. -/

namespace Sys2Proof.Machine

/-! ## Logic functions -/

/-- Ch (R102). -/
def ch (x y z : Word) : Word := (x &&& y) ^^^ (~~~x &&& z)

/-- Maj (R103). -/
def maj (x y z : Word) : Word := (x &&& y) ^^^ (x &&& z) ^^^ (y &&& z)

/-- Σ0 (R104). -/
def bigSigma0 (x : Word) : Word := rotr x 2 ^^^ rotr x 13 ^^^ rotr x 22

/-- Σ1 (R105). -/
def bigSigma1 (x : Word) : Word := rotr x 6 ^^^ rotr x 11 ^^^ rotr x 25

/-- σ0; its third term is a shift (R106). -/
def smallSigma0 (x : Word) : Word := rotr x 7 ^^^ rotr x 18 ^^^ shr x 3

/-- σ1; its third term is a shift (R107). -/
def smallSigma1 (x : Word) : Word := rotr x 17 ^^^ rotr x 19 ^^^ shr x 10

/-! ## Message-schedule expander -/

/-- M[0..15]: a block as sixteen big-endian words (R64, R108). -/
def unpackBE (blk : Block) : Vector Word 16 :=
  Vector.ofFn fun j : Fin 16 =>
    be32 blk[4 * j.val] blk[4 * j.val + 1] blk[4 * j.val + 2] blk[4 * j.val + 3]

/-- The first 16 + n words of the schedule: M, then the recurrence, where the new word's index t is 16 + n, so that t-2, t-7,
t-15 and t-16 are 14 + n, 9 + n, 1 + n and n (R109, R110). -/
def expandSchedule (m : Vector Word 16) : (n : Nat) → Vector Word (16 + n)
  | 0 => m
  | n + 1 =>
    let w := expandSchedule m n
    w.push (smallSigma1 w[14 + n] + w[9 + n] + smallSigma0 w[1 + n] + w[n])

/-- W[0..63] of a block (R109, R110). -/
def schedule (blk : Block) : Vector Word 64 := expandSchedule (unpackBE blk) 48

/-! ## Compression function -/

/-- The working variables a..h (R31, R111). -/
structure ShaWork where
  (a b c d e f g h : Word)
deriving DecidableEq, Repr

/-- The working variables at the start of a compression (R111). -/
def shaLoad (v : ShaVec) : ShaWork := ⟨v.h0, v.h1, v.h2, v.h3, v.h4, v.h5, v.h6, v.h7⟩

/-- One round with round constant `k` and schedule word `w`; the eight assignments are simultaneous (R112). -/
def shaRound (k w : Word) (v : ShaWork) : ShaWork :=
  let t1 := v.h + bigSigma1 v.e + ch v.e v.f v.g + k + w
  let t2 := bigSigma0 v.a + maj v.a v.b v.c
  ⟨t1 + t2, v.a, v.b, v.c, v.d + t1, v.e, v.f, v.g⟩

/-- The working variables after rounds 0 .. n-1 (R112). -/
def shaRounds (w : Vector Word 64) (start : ShaWork) : (n : Nat) → n ≤ 64 → ShaWork
  | 0, _ => start
  | n + 1, _ => shaRound kRom[n] w[n] (shaRounds w start n (by omega))

/-- The final addition (R113). -/
def shaAdd (v : ShaVec) (r : ShaWork) : ShaVec :=
  ⟨v.h0 + r.a, v.h1 + r.b, v.h2 + r.c, v.h3 + r.d, v.h4 + r.e, v.h5 + r.f, v.h6 + r.g, v.h7 + r.h⟩

/-- SHA256_COMPRESS (R114). -/
def sha256Compress (v : ShaVec) (blk : Block) : ShaVec :=
  shaAdd v (shaRounds (schedule blk) (shaLoad v) 64 (Nat.le_refl 64))

/-! ## Digest -/

/-- SHA256_OUT: the eight state words as big-endian bytes, in order (R65, R117). -/
def sha256Out (v : ShaVec) : List Byte :=
  bytesBE32 v.h0 ++ bytesBE32 v.h1 ++ bytesBE32 v.h2 ++ bytesBE32 v.h3 ++
    bytesBE32 v.h4 ++ bytesBE32 v.h5 ++ bytesBE32 v.h6 ++ bytesBE32 v.h7

end Sys2Proof.Machine
end

