-- ==== Sys2Proof/Machine/Stream.lean ====
section
/-! DEFINITION. Streaming buffer and counter control, shared by both algorithms (spec/42_commands.md R201-R204) with the padding
of spec/40_sha256.md R115 and spec/41_md5.md R164. `compress` stands for COMPRESS_A, `out` for OUT_A. -/

namespace Sys2Proof.Machine

/-- The first n 64-byte blocks of a sequence that has them, in stream order (R69, R201). -/
def takeBlocks : (n : Nat) → (q : List Byte) → 64 * n ≤ q.length → List Block
  | 0, _, _ => []
  | n + 1, q, h =>
    ⟨(q.take 64).toArray, by simp; omega⟩ :: takeBlocks n (q.drop 64) (by simp; omega)

/-- The floor(len(q) / 64) complete blocks of q (R201). -/
def blocks (q : List Byte) : List Block := takeBlocks (q.length / 64) q (Nat.mul_div_le q.length 64)

/-- The 0 to 63 bytes of q after its complete blocks (R201). -/
def leftover (q : List Byte) : List Byte := q.drop (64 * (q.length / 64))

/-- ABSORB_A(c, data) (R201). -/
def absorb {SV : Type} (compress : SV → Block → SV) (c : Ctx SV) (data : List Byte) : Ctx SV where
  sv := (blocks (c.buf ++ data)).foldl compress c.sv
  buf := leftover (c.buf ++ data)
  cnt := c.cnt + BitVec.ofNat 64 data.length

/-- The context INIT writes: initial vector, empty buffer, zero counter (R206, R207). -/
def freshCtx {SV : Type} (iv : SV) : Ctx SV := ⟨iv, [], 0⟩

/-- How many zero bytes the loop `while len(p) mod 64 != 56` appends to a sequence of length n (R115, R164). -/
def zeroFill (n : Nat) : Nat := (120 - n % 64) % 64

/-- The padded tail: marker, zero fill, and the bit count 8 x CNT modulo 2^64 in the given byte order (R115, R164, D14). -/
def padTail (lengthField : Count → List Byte) (buf : List Byte) (cnt : Count) : List Byte :=
  let p := buf ++ [0x80]
  p ++ List.replicate (zeroFill p.length) 0x00 ++ lengthField (cnt * 8)

/-- PAD_SHA (R115). -/
def padSha (buf : List Byte) (cnt : Count) : List Byte := padTail bytesBE64 buf cnt

/-- PAD_MD5 (R164). -/
def padMd5 (buf : List Byte) (cnt : Count) : List Byte := padTail bytesLE64 buf cnt

/-- FINALIZE_SHA(c): works on values read from c and writes nothing (R203, R204). -/
def finalizeSha (c : Ctx ShaVec) : List Byte :=
  sha256Out ((blocks (padSha c.buf c.cnt)).foldl sha256Compress c.sv)

/-- FINALIZE_MD5(c) (R203, R204). -/
def finalizeMd5 (c : Ctx Md5Vec) : List Byte :=
  md5Out ((blocks (padMd5 c.buf c.cnt)).foldl md5Compress c.sv)

end Sys2Proof.Machine
end

