-- ==== Sys2Proof/Machine/Ops.lean ====
section
/-! DEFINITION. The named operations on slot files and on the state: the effect of each of the five operations on one
algorithm's file (spec/42_commands.md R206-R215), the response (R200, spec/30_encoding.md R94) and the failure of a command
(spec/60_exceptions.md R250, R258), which stands where an exception stands on other machines, taking an input from the port, and
the reset event (spec/70_reset_and_hazards.md R280). -/

namespace Sys2Proof.Machine

/-! ## Slot files -/

/-- Write a context to a slot, and VALID <- 1 with it (R25). -/
def writeSlot {SV : Type} (file : SlotFile SV) (n : Nat) (c : Ctx SV) : SlotFile SV := file.set n (some c)

/-- INIT of slot n (R206, R207): the old context is lost (D8). -/
def initSlot {SV : Type} (iv : SV) (file : SlotFile SV) (n : Nat) : Except Status (SlotFile SV) :=
  (checkSlot file n).map fun _ => writeSlot file n (freshCtx iv)

/-- UPDATE of slot n (R208, R209). -/
def updateSlot {SV : Type} (compress : SV → Block → SV) (file : SlotFile SV) (n : Nat) (data : List Byte) :
    Except Status (SlotFile SV) :=
  (readSlot file n).map fun c => writeSlot file n (absorb compress c data)

/-- DIGEST of slot n with the finalization `fin` (R210, R211). -/
def digestSlot {SV : Type} (fin : Ctx SV → List Byte) (file : SlotFile SV) (n : Nat) : Except Status (List Byte) :=
  (readSlot file n).map fin

/-- HEXDIGEST of slot n (R212, R213). -/
def hexdigestSlot {SV : Type} (fin : Ctx SV → List Byte) (file : SlotFile SV) (n : Nat) : Except Status (List Byte) :=
  (readSlot file n).map fun c => hex (fin c)

/-- COPY of slot r into slot d: the destination must exist, then the source must exist and be valid; the source is read before
the write (R214, R215, R257, R285). -/
def copySlot {SV : Type} (file : SlotFile SV) (d r : Nat) : Except Status (SlotFile SV) :=
  match checkSlot file d with
  | .error e => .error e
  | .ok () => (readSlot file r).map fun src => writeSlot file d src

/-! ## Responses -/

/-- `respond(status, data)`: the response replaces the one before it (R12, R94). -/
def State.respond (s : State) (st : Status) (data : List Byte) : State :=
  { s with rsp := some ⟨st.byte, data⟩ }

/-- `raise <Error>`: no state changes but the response, which carries the code and no data (R250, R258). -/
def State.fail (s : State) (e : Status) : State := s.respond e []

/-- End a command that writes CTX_SHA. Either way there is a next state: an error is only a status (R200). -/
def State.finishSha (s : State) (r : Except Status (SlotFile ShaVec)) : Host.Outcome State Fault Refusal :=
  .next (match r with
    | .ok file => State.respond { s with ctxSha := file } .ok []
    | .error e => s.fail e)

/-- End a command that writes CTX_MD5, likewise. -/
def State.finishMd5 (s : State) (r : Except Status (SlotFile Md5Vec)) : Host.Outcome State Fault Refusal :=
  .next (match r with
    | .ok file => State.respond { s with ctxMd5 := file } .ok []
    | .error e => s.fail e)

/-- End a command that only answers data, likewise. -/
def State.answer (s : State) (r : Except Status (List Byte)) : Host.Outcome State Fault Refusal :=
  .next (match r with
    | .ok data => s.respond .ok data
    | .error e => s.fail e)

/-! ## The port -/

/-- CMD: the command pending at the port (R29). -/
def State.cmd (s : State) : Option Command :=
  match s.inputs with
  | .command c :: _ => some c
  | _ => none

/-- Take the next input from the port, in acceptance order (R73); none when nothing is presented. -/
def State.takeInput (s : State) : Option (PortInput × State) :=
  match s.inputs with
  | [] => none
  | x :: rest => some (x, { s with inputs := rest })

/-- Present a command at the port as the very next one. -/
def State.present (s : State) (c : Command) : State := { s with inputs := .command c :: s.inputs }

/-- The reset event: every VALID becomes 0, every other slot field valueless, no response pending; the slot counts and the ROMs
stand (R280, R32), and so does what is presented after the reset (log entry 7). -/
def State.performReset (s : State) : State :=
  { s with
    ctxSha := List.replicate s.ctxSha.length none
    ctxMd5 := List.replicate s.ctxMd5.length none
    rsp := none }

end Sys2Proof.Machine
end

