-- ==== Sys2Proof/Machine/Md5Commands.lean ====
section
/-! DEFINITION. The meanings of the five MD5 commands (spec/42_commands.md R207, R209, R211, R213, R215). -/

namespace Sys2Proof.Machine

/-- MD5.INIT (R207). -/
def execMd5Init (slot : Nat) (s : State) : Host.Outcome State Fault Refusal :=
  s.finishMd5 (initSlot ivMd5 s.ctxMd5 slot)

/-- MD5.UPDATE (R209). -/
def execMd5Update (slot : Nat) (data : List Byte) (s : State) : Host.Outcome State Fault Refusal :=
  s.finishMd5 (updateSlot md5Compress s.ctxMd5 slot data)

/-- MD5.DIGEST (R211). -/
def execMd5Digest (slot : Nat) (s : State) : Host.Outcome State Fault Refusal :=
  s.answer (digestSlot finalizeMd5 s.ctxMd5 slot)

/-- MD5.HEXDIGEST (R213). -/
def execMd5Hexdigest (slot : Nat) (s : State) : Host.Outcome State Fault Refusal :=
  s.answer (hexdigestSlot finalizeMd5 s.ctxMd5 slot)

/-- MD5.COPY (R215). -/
def execMd5Copy (dst src : Nat) (s : State) : Host.Outcome State Fault Refusal :=
  s.finishMd5 (copySlot s.ctxMd5 dst src)

end Sys2Proof.Machine
end

