-- ==== Sys2Proof/Machine/Sha256Commands.lean ====
section
/-! DEFINITION. The meanings of the five SHA-256 commands (spec/42_commands.md R206, R208, R210, R212, R214). -/

namespace Sys2Proof.Machine

/-- SHA256.INIT (R206). -/
def execSha256Init (slot : Nat) (s : State) : Host.Outcome State Fault Refusal :=
  s.finishSha (initSlot ivSha s.ctxSha slot)

/-- SHA256.UPDATE (R208). -/
def execSha256Update (slot : Nat) (data : List Byte) (s : State) : Host.Outcome State Fault Refusal :=
  s.finishSha (updateSlot sha256Compress s.ctxSha slot data)

/-- SHA256.DIGEST (R210). -/
def execSha256Digest (slot : Nat) (s : State) : Host.Outcome State Fault Refusal :=
  s.answer (digestSlot finalizeSha s.ctxSha slot)

/-- SHA256.HEXDIGEST (R212). -/
def execSha256Hexdigest (slot : Nat) (s : State) : Host.Outcome State Fault Refusal :=
  s.answer (hexdigestSlot finalizeSha s.ctxSha slot)

/-- SHA256.COPY (R214). -/
def execSha256Copy (dst src : Nat) (s : State) : Host.Outcome State Fault Refusal :=
  s.finishSha (copySlot s.ctxSha dst src)

end Sys2Proof.Machine
end

