-- ==== Sys2Proof/Machine/Dispatch.lean ====
section
/-! DEFINITION. The dispatch of an instruction to its meaning: one arm per row of the opcode map (spec/30_encoding.md R89). -/

namespace Sys2Proof.Machine

def exec (i : Instr) (s : State) : Host.Outcome State Fault Refusal :=
  match i with
  | .sha256Init slot => Sys2Proof.Machine.execSha256Init slot s
  | .md5Init slot => Sys2Proof.Machine.execMd5Init slot s
  | .sha256Update slot data => Sys2Proof.Machine.execSha256Update slot data s
  | .md5Update slot data => Sys2Proof.Machine.execMd5Update slot data s
  | .sha256Digest slot => Sys2Proof.Machine.execSha256Digest slot s
  | .md5Digest slot => Sys2Proof.Machine.execMd5Digest slot s
  | .sha256Hexdigest slot => Sys2Proof.Machine.execSha256Hexdigest slot s
  | .md5Hexdigest slot => Sys2Proof.Machine.execMd5Hexdigest slot s
  | .sha256Copy dst src => Sys2Proof.Machine.execSha256Copy dst src s
  | .md5Copy dst src => Sys2Proof.Machine.execMd5Copy dst src s

end Sys2Proof.Machine
end

