-- ==== Sys2Proof/Machine/Step.lean ====
section
/-! DEFINITION. One step of the block (spec/42_commands.md R200): it takes the next input from the port and performs it whole. -/

namespace Sys2Proof.Machine

/-- One step. A command is decoded and performed, or fails with ILLEGAL_COMMAND (R200, R88); a reset is performed (R280); with
nothing presented the block holds its state (R267, log entry 6). -/
def step (s : State) : Host.Outcome State Fault Refusal :=
  match s.takeInput with
  | none => .next s
  | some (.reset, s') => .next s'.performReset
  | some (.command c, s') =>
    match decode c with
    | .instr i => exec i s'
    | .illegalCommand _ => .next (s'.fail .illegalCommand)

/-- `s` with the instruction of a table word presented as the very next command (log entry 8). -/
def State.withFetchWord (s : State) (nbits w : Nat) : State := s.present (tableCommand nbits w)

end Sys2Proof.Machine
end

