-- ==== Sys2Proof/Safety.lean ====
section
/-! DEFINITION. The terms in which claims about the block are stated: the invariant of its state (spec/10_state.md R20, R26, R28,
R29; spec/30_encoding.md R94), which slots a command reads and writes (R22), runs of several commands, and the byte stream a slot
has absorbed (spec/20_memory.md R63) with the digest of a stream (spec/42_commands.md R219). -/

namespace Sys2Proof

/-! ## What a command touches (R22, R25) -/

/-- The slot operands of an instruction: SLOT, and SRC for COPY. -/
def Instr.slots (i : Instr) : List Nat := i.slot :: i.source.toList

/-- The slot whose VALID the instruction checks: the addressed slot, the source for COPY, none for INIT (R255). -/
def Instr.slotRead : Instr → Option Nat
  | .sha256Init _ | .md5Init _ => none
  | .sha256Update slot _ | .sha256Digest slot | .sha256Hexdigest slot => some slot
  | .md5Update slot _ | .md5Digest slot | .md5Hexdigest slot => some slot
  | .sha256Copy _ src | .md5Copy _ src => some src

/-- The slot the instruction writes when it succeeds: none for DIGEST and HEXDIGEST (R21, R22). -/
def Instr.slotWritten : Instr → Option Nat
  | .sha256Init slot | .sha256Update slot _ | .sha256Copy slot _ => some slot
  | .md5Init slot | .md5Update slot _ | .md5Copy slot _ => some slot
  | .sha256Digest _ | .sha256Hexdigest _ | .md5Digest _ | .md5Hexdigest _ => none

/-- How many data bytes the response has on success (R94). -/
def Instr.answerLength : Instr → Nat
  | .sha256Init _ | .md5Init _ | .sha256Update _ _ | .md5Update _ _ | .sha256Copy _ _ | .md5Copy _ _ => 0
  | .sha256Digest _ => 32
  | .md5Digest _ => 16
  | .sha256Hexdigest _ => 64
  | .md5Hexdigest _ => 32

end Sys2Proof

namespace Sys2Proof.Machine

/-- NSLOT_A: the slot count of an algorithm's file (R20). -/
def State.nslot (s : State) : Alg → Nat
  | .sha256 => s.ctxSha.length
  | .md5 => s.ctxMd5.length

/-- VALID of a slot; false where there is no such slot (R25). -/
def State.valid (s : State) (alg : Alg) (n : Nat) : Bool :=
  match alg with
  | .sha256 => (s.ctxSha[n]?.join).isSome
  | .md5 => (s.ctxMd5[n]?.join).isSome

/-- Slot n of algorithm `alg` is the same in two states: absent in both, invalid in both, or valid with the same context. -/
def SameSlot (alg : Alg) (n : Nat) (s t : State) : Prop :=
  match alg with
  | .sha256 => s.ctxSha[n]? = t.ctxSha[n]?
  | .md5 => s.ctxMd5[n]? = t.ctxMd5[n]?

/-! ## MD5's schedules as formulas (R153, R158) -/

/-- The message-word index of round i by its band's formula (R158). -/
def midxFormula (i : Nat) : Fin 16 :=
  if i < 16 then Fin.ofNat 16 i
  else if i < 32 then Fin.ofNat 16 (5 * i + 1)
  else if i < 48 then Fin.ofNat 16 (3 * i + 5)
  else Fin.ofNat 16 (7 * i)

/-- The rotation amount of round i: entry i mod 4 of its band's four values (R153). -/
def shiftFormula (i : Nat) : Nat :=
  let band := if i < 16 then (7, 12, 17, 22) else if i < 32 then (5, 9, 14, 20)
    else if i < 48 then (4, 11, 16, 23) else (6, 10, 15, 21)
  if i % 4 = 0 then band.1 else if i % 4 = 1 then band.2.1 else if i % 4 = 2 then band.2.2.1 else band.2.2.2

/-! ## The invariant -/

/-- A valid context between commands: BLEN in 0..63 (R26) and BLEN = CNT mod 64 (R28). -/
def ctxOk {SV : Type} (c : Ctx SV) : Bool := c.blen < 64 && c.blen == c.cnt.toNat % 64

/-- A slot file: 1 to 256 slots (R8), every valid one with a well-formed context. -/
def fileOk {SV : Type} (file : SlotFile SV) : Bool :=
  1 ≤ file.length && file.length ≤ 256 &&
    file.all fun x => match x with
      | none => true
      | some c => ctxOk c

/-- A response the block can give: STATUS[7:4] zero and a code it produces, 0, 2, 3 or 4 (R251, R252, U6); data of 0, 16, 32 or
64 bytes on success and none on failure (R29, R94). -/
def responseOk (r : Response) : Bool :=
  if r.status = 0 then [0, 16, 32, 64].contains r.data.length
  else [0x02, 0x03, 0x04].contains r.status && r.data.isEmpty

/-- The invariant of the state between commands. -/
def State.Inv (s : State) : Prop :=
  fileOk s.ctxSha = true ∧ fileOk s.ctxMd5 = true ∧ ∀ r, s.rsp = some r → responseOk r = true

/-! ## Runs -/

/-- Several instructions one after the other, as the port performs them (R73): none if one of them stops. -/
def execAll : List Instr → State → Option State
  | [], s => some s
  | i :: is, s =>
    match exec i s with
    | .next t => execAll is t
    | .fault _ => none
    | .refused _ => none

/-! ## Streams (R63) and their digests (R219) -/

/-- Context `c` holds stream `m`: what INIT and then `m` in any number of UPDATEs leave (R63). -/
def HoldsStream {SV : Type} (iv : SV) (compress : SV → Block → SV) (c : Ctx SV) (m : List Byte) : Prop :=
  c.sv = (blocks m).foldl compress iv ∧ c.buf = leftover m ∧ c.cnt = BitVec.ofNat 64 m.length

/-- `m alg n` is the stream of slot n of algorithm alg, for every valid slot. -/
def Tracks (s : State) (m : Alg → Nat → List Byte) : Prop :=
  (∀ n c, s.ctxSha[n]? = some (some c) → HoldsStream ivSha sha256Compress c (m .sha256 n)) ∧
    ∀ n c, s.ctxMd5[n]? = some (some c) → HoldsStream ivMd5 md5Compress c (m .md5 n)

/-- Replace the stream of one slot. -/
def setStream (m : Alg → Nat → List Byte) (alg : Alg) (n : Nat) (new : List Byte) : Alg → Nat → List Byte :=
  fun a k => if a = alg ∧ k = n then new else m a k

/-- The streams after an instruction succeeds (R63): INIT starts an empty one, UPDATE appends its payload, COPY takes the
source's, DIGEST and HEXDIGEST change none. -/
def streamsAfter (m : Alg → Nat → List Byte) : Instr → Alg → Nat → List Byte
  | .sha256Init slot => setStream m .sha256 slot []
  | .md5Init slot => setStream m .md5 slot []
  | .sha256Update slot data => setStream m .sha256 slot (m .sha256 slot ++ data)
  | .md5Update slot data => setStream m .md5 slot (m .md5 slot ++ data)
  | .sha256Copy dst src => setStream m .sha256 dst (m .sha256 src)
  | .md5Copy dst src => setStream m .md5 dst (m .md5 src)
  | .sha256Digest _ | .md5Digest _ | .sha256Hexdigest _ | .md5Hexdigest _ => m

/-- The SHA-256 digest of a whole stream, by R219: the compression folded over the blocks of the stream and its padding. Below
2^61 bytes it is the standard's digest (R118). -/
def sha256Stream (m : List Byte) : List Byte :=
  sha256Out ((blocks (padSha m (BitVec.ofNat 64 m.length))).foldl sha256Compress ivSha)

/-- The MD5 digest of a whole stream, by R219; the standard's digest at every length (R167). -/
def md5Stream (m : List Byte) : List Byte :=
  md5Out ((blocks (padMd5 m (BitVec.ofNat 64 m.length))).foldl md5Compress ivMd5)

end Sys2Proof.Machine
end

