-- ==== Sys2Proof/Certificates/Slice0/Obligations.lean ====
section
/-! DEFINITION. The statements about the block, each from numbered rules of the spec. They are stated here and proved elsewhere. -/

open Sys2Proof Sys2Proof.Machine

/-! ## Encoding -/

/-- Decoding the encoding of a well-formed instruction gives it back, with every slot operand and every payload
(R81, R84, R85, R87). -/
def Obligations.DecodeOfEncode : Prop :=
  ∀ i : Instr, i.wf = true → decode (encode i) = .instr i

/-- Every command that decodes is the encoding of its instruction: each encoding has exactly one meaning (D5, R90). -/
def Obligations.EncodeOfDecode : Prop :=
  ∀ (c : Command) (i : Instr), decode c = .instr i → encode i = c ∧ i.wf = true

/-- R89: a command decodes to a row's instruction exactly when its word matches the row (and its payload is empty but on UPDATE,
R87); at most one row matches a word; SLOT and SRC are the operands the pattern's s and r bits give. -/
def Obligations.OpcodeMapExact : Prop :=
  (∀ (c : Command) (name : String),
    (∃ i, decode c = .instr i ∧ i.mnemonic = name) ↔
      ∃ row ∈ opcodeTable, row.mnemonic = name ∧ c.word &&& row.mask = row.pattern ∧
        (row.takesPayload = true ∨ c.payload = [])) ∧
  (∀ w : BitVec 32, (opcodeTable.filter fun row => row.hits w).length ≤ 1) ∧
  ∀ (c : Command) (i : Instr), decode c = .instr i →
    i.slot = (c.word.extractLsb' 8 8).toNat ∧ ∀ r, i.source = some r → r = (c.word.extractLsb' 16 8).toNat

/-- The worked encodings of R89 decode to the commands they stand for. -/
def Obligations.WorkedEncodingsDecode : Prop :=
  decode ⟨0x00000001, []⟩ = .instr (.sha256Init 0) ∧
  decode ⟨0x00000111, []⟩ = .instr (.md5Init 1) ∧
  decode ⟨0x00000002, [0x61]⟩ = .instr (.sha256Update 0 [0x61]) ∧
  decode ⟨0x00000004, []⟩ = .instr (.sha256Hexdigest 0) ∧
  decode ⟨0x00000214, []⟩ = .instr (.md5Hexdigest 2) ∧
  decode ⟨0x00000105, []⟩ = .instr (.sha256Copy 1 0) ∧
  decode ⟨0x00010215, []⟩ = .instr (.md5Copy 2 1)

/-- R253 with R90 and R258: a command at the port answers ILLEGAL_COMMAND, with no data and nothing else changed, exactly when OP
is 0x0 or 0x6..0xF, or RSV0 or RSV1 is non-zero, or SRC is non-zero and OP is not 0x5, or the payload is non-empty and OP is
not 0x2. That the command leaves `inputs` is the model's own (log entry 5). -/
def Obligations.IllegalCommandExactly : Prop :=
  ∀ (s : State) (c : Command) (rest : List PortInput), s.inputs = .command c :: rest →
    ((((c.word.extractLsb' 0 4).toNat = 0 ∨ 6 ≤ (c.word.extractLsb' 0 4).toNat) ∨
        c.word.extractLsb' 5 3 ≠ 0 ∨ c.word.extractLsb' 24 8 ≠ 0 ∨
        ((c.word.extractLsb' 0 4).toNat ≠ 5 ∧ c.word.extractLsb' 16 8 ≠ 0) ∨
        ((c.word.extractLsb' 0 4).toNat ≠ 2 ∧ c.payload ≠ [])) ↔
      step s = .next { s with inputs := rest, rsp := some ⟨0x02, []⟩ })

/-! ## The step -/

/-- When the command at the head of the port decodes, the step is exec of its instruction on the state with that command taken
from the port (R200). -/
def Obligations.StepRunsDecodedInstruction : Prop :=
  ∀ (s : State) (c : Command) (rest : List PortInput) (i : Instr),
    s.inputs = .command c :: rest → decode c = .instr i → step s = exec i { s with inputs := rest }

/-- With nothing presented at the port, the block holds its state (R267). That a step is then an idle one is the model's own
reading, log entry 6. -/
def Obligations.IdleStepHoldsState : Prop :=
  ∀ s : State, s.inputs = [] → step s = .next s

/-- R200, R256, R287: every step from every state gives a next state; the block has no way to stop. -/
def Obligations.StepAlwaysCompletes : Prop :=
  ∀ s : State, ∃ t, step s = .next t

/-- R257: the status of a command at the port is the first that applies, in this order: ILLEGAL_COMMAND, BAD_SLOT for SLOT, BAD_SLOT
for SRC, NO_CONTEXT for the slot read; else OK. -/
def Obligations.ErrorPriority : Prop :=
  ∀ (s : State) (c : Command) (rest : List PortInput), s.inputs = .command c :: rest →
    ∃ t r, step s = .next t ∧ t.rsp = some r ∧
      (∀ why, decode c = .illegalCommand why → r.status = 0x02) ∧
      ∀ i, decode c = .instr i →
        r.status =
          if s.nslot i.alg ≤ i.slot then 0x03
          else if i.source.any (fun n => s.nslot i.alg ≤ n) = true then 0x03
          else if i.slotRead.any (fun n => !s.valid i.alg n) = true then 0x04
          else 0x00

/-- R258: when a command's response carries an error code, the whole state but the response is as before and the response has no
data. That the command leaves `inputs` is the model's own (log entry 5). -/
def Obligations.FailedCommandChangesNothing : Prop :=
  ∀ (s t : State) (c : Command) (rest : List PortInput) (r : Response),
    s.inputs = .command c :: rest → step s = .next t → t.rsp = some r → r.status ≠ 0x00 →
      t = { s with inputs := rest, rsp := some ⟨r.status, []⟩ }

/-- R252, R251, R94: no command is ever answered with INVALID_INPUT_KIND or a reserved code, and bits 7:4 of the status byte are 0. -/
def Obligations.StatusCodesProduced : Prop :=
  ∀ (s t : State) (c : Command) (rest : List PortInput), s.inputs = .command c :: rest → step s = .next t →
    ∃ r, t.rsp = some r ∧ r.status.extractLsb' 4 4 = 0 ∧
      (r.status = 0x00 ∨ r.status = 0x02 ∨ r.status = 0x03 ∨ r.status = 0x04)

/-! ## Reset -/

/-- R32: after reset every slot of both files is invalid, no command is pending and no response is pending; each file has 1 to 256
slots (R8). -/
def Obligations.ResetStateHoldsNothing : Prop :=
  (∀ alg n, State.reset.valid alg n = false) ∧ State.reset.cmd = none ∧ State.reset.rsp = none ∧
  ∀ alg, 1 ≤ State.reset.nslot alg ∧ State.reset.nslot alg ≤ 256

/-- R280: a reset at the port makes every slot invalid whatever the state before it, keeping the slot counts. What it does to the
response and to inputs presented after it is as R32 and log entry 7 say. -/
def Obligations.ResetEventClearsEverySlot : Prop :=
  ∀ (s : State) (rest : List PortInput), s.inputs = .reset :: rest →
    ∃ t, step s = .next t ∧ (∀ alg n, t.valid alg n = false) ∧ (∀ alg, t.nslot alg = s.nslot alg) ∧
      t.rsp = none ∧ t.inputs = rest

/-- R282: a reset right after any command leaves the same state as if that command had not been performed, and its response is not
there. -/
def Obligations.ResetOverridesCommandInProgress : Prop :=
  ∀ (s : State) (c : Command) (rest : List PortInput),
    ∃ t u, step { s with inputs := .command c :: .reset :: rest } = .next t ∧ step t = .next u ∧
      step { s with inputs := .reset :: rest } = .next u ∧ u.rsp = none

/-- R283: while no slot is valid, only INIT succeeds. -/
def Obligations.OnlyInitSucceedsBeforeInit : Prop :=
  ∀ (s t : State) (i : Instr) (r : Response), (∀ alg n, s.valid alg n = false) → exec i s = .next t →
    t.rsp = some r → r.status = 0x00 → ∃ slot, i = .sha256Init slot ∨ i = .md5Init slot

/-! ## Each instruction at the port: R206 to R215 whole

Each statement takes a command word from its fields by the bit diagram of R81, with the instruction's OP and ALG and any RSV1, SRC,
SLOT, RSV0 and payload, and gives the whole state after the step: the error cases in the order of R257, else the effect. That the
command leaves `inputs` is the model's own (log entry 5); every other clause is the rules'. -/

/-- R206 (SHA256.INIT) and R207 (MD5.INIT). That the command leaves `inputs` is the model's own choice, log entry 5. -/
def Obligations.InitAtPort : Prop :=
  (∀ (s : State) (rest : List PortInput) (rsv1 src slot : BitVec 8) (rsv0 : BitVec 3) (p : List Byte),
    step { s with inputs := .command ⟨rsv1 ++ src ++ slot ++ rsv0 ++ 0#1 ++ 1#4, p⟩ :: rest } = .next
      (if rsv1 ≠ 0 ∨ rsv0 ≠ 0 ∨ src ≠ 0 ∨ p ≠ [] then { s with inputs := rest, rsp := some ⟨0x02, []⟩ }
      else if s.ctxSha.length ≤ slot.toNat then { s with inputs := rest, rsp := some ⟨0x03, []⟩ }
      else
        { s with
          inputs := rest
          rsp := some ⟨0x00, []⟩
          ctxSha := s.ctxSha.set slot.toNat (some
            { sv := ⟨0x6a09e667, 0xbb67ae85, 0x3c6ef372, 0xa54ff53a, 0x510e527f, 0x9b05688c, 0x1f83d9ab, 0x5be0cd19⟩
              buf := []
              cnt := 0 }) })) ∧
  ∀ (s : State) (rest : List PortInput) (rsv1 src slot : BitVec 8) (rsv0 : BitVec 3) (p : List Byte),
    step { s with inputs := .command ⟨rsv1 ++ src ++ slot ++ rsv0 ++ 1#1 ++ 1#4, p⟩ :: rest } = .next
      (if rsv1 ≠ 0 ∨ rsv0 ≠ 0 ∨ src ≠ 0 ∨ p ≠ [] then { s with inputs := rest, rsp := some ⟨0x02, []⟩ }
      else if s.ctxMd5.length ≤ slot.toNat then { s with inputs := rest, rsp := some ⟨0x03, []⟩ }
      else
        { s with
          inputs := rest
          rsp := some ⟨0x00, []⟩
          ctxMd5 := s.ctxMd5.set slot.toNat (some
            { sv := ⟨0x67452301, 0xefcdab89, 0x98badcfe, 0x10325476⟩
              buf := []
              cnt := 0 }) })

/-- R208 (SHA256.UPDATE) and R209 (MD5.UPDATE), with ABSORB of R201 written out. That the command leaves `inputs` is the model's own
choice, log entry 5. -/
def Obligations.UpdateAtPort : Prop :=
  (∀ (s : State) (rest : List PortInput) (rsv1 src slot : BitVec 8) (rsv0 : BitVec 3) (p : List Byte),
    step { s with inputs := .command ⟨rsv1 ++ src ++ slot ++ rsv0 ++ 0#1 ++ 2#4, p⟩ :: rest } = .next
      (if rsv1 ≠ 0 ∨ rsv0 ≠ 0 ∨ src ≠ 0 then { s with inputs := rest, rsp := some ⟨0x02, []⟩ }
      else match s.ctxSha[slot.toNat]? with
        | none => { s with inputs := rest, rsp := some ⟨0x03, []⟩ }
        | some none => { s with inputs := rest, rsp := some ⟨0x04, []⟩ }
        | some (some c) =>
          { s with
            inputs := rest
            rsp := some ⟨0x00, []⟩
            ctxSha := s.ctxSha.set slot.toNat (some
              { sv := (blocks (c.buf ++ p)).foldl sha256Compress c.sv
                buf := (c.buf ++ p).drop (64 * ((c.buf ++ p).length / 64))
                cnt := c.cnt + BitVec.ofNat 64 p.length }) })) ∧
  ∀ (s : State) (rest : List PortInput) (rsv1 src slot : BitVec 8) (rsv0 : BitVec 3) (p : List Byte),
    step { s with inputs := .command ⟨rsv1 ++ src ++ slot ++ rsv0 ++ 1#1 ++ 2#4, p⟩ :: rest } = .next
      (if rsv1 ≠ 0 ∨ rsv0 ≠ 0 ∨ src ≠ 0 then { s with inputs := rest, rsp := some ⟨0x02, []⟩ }
      else match s.ctxMd5[slot.toNat]? with
        | none => { s with inputs := rest, rsp := some ⟨0x03, []⟩ }
        | some none => { s with inputs := rest, rsp := some ⟨0x04, []⟩ }
        | some (some c) =>
          { s with
            inputs := rest
            rsp := some ⟨0x00, []⟩
            ctxMd5 := s.ctxMd5.set slot.toNat (some
              { sv := (blocks (c.buf ++ p)).foldl md5Compress c.sv
                buf := (c.buf ++ p).drop (64 * ((c.buf ++ p).length / 64))
                cnt := c.cnt + BitVec.ofNat 64 p.length }) })

/-- R210 (SHA256.DIGEST) and R211 (MD5.DIGEST), with FINALIZE of R203 written out. That the command leaves `inputs` is the model's own
choice, log entry 5. -/
def Obligations.DigestAtPort : Prop :=
  (∀ (s : State) (rest : List PortInput) (rsv1 src slot : BitVec 8) (rsv0 : BitVec 3) (p : List Byte),
    step { s with inputs := .command ⟨rsv1 ++ src ++ slot ++ rsv0 ++ 0#1 ++ 3#4, p⟩ :: rest } = .next
      (if rsv1 ≠ 0 ∨ rsv0 ≠ 0 ∨ src ≠ 0 ∨ p ≠ [] then { s with inputs := rest, rsp := some ⟨0x02, []⟩ }
      else match s.ctxSha[slot.toNat]? with
        | none => { s with inputs := rest, rsp := some ⟨0x03, []⟩ }
        | some none => { s with inputs := rest, rsp := some ⟨0x04, []⟩ }
        | some (some c) =>
          { s with
            inputs := rest
            rsp := some ⟨0x00, sha256Out ((blocks (padSha c.buf c.cnt)).foldl sha256Compress c.sv)⟩ })) ∧
  ∀ (s : State) (rest : List PortInput) (rsv1 src slot : BitVec 8) (rsv0 : BitVec 3) (p : List Byte),
    step { s with inputs := .command ⟨rsv1 ++ src ++ slot ++ rsv0 ++ 1#1 ++ 3#4, p⟩ :: rest } = .next
      (if rsv1 ≠ 0 ∨ rsv0 ≠ 0 ∨ src ≠ 0 ∨ p ≠ [] then { s with inputs := rest, rsp := some ⟨0x02, []⟩ }
      else match s.ctxMd5[slot.toNat]? with
        | none => { s with inputs := rest, rsp := some ⟨0x03, []⟩ }
        | some none => { s with inputs := rest, rsp := some ⟨0x04, []⟩ }
        | some (some c) =>
          { s with
            inputs := rest
            rsp := some ⟨0x00, md5Out ((blocks (padMd5 c.buf c.cnt)).foldl md5Compress c.sv)⟩ })

/-- R212 (SHA256.HEXDIGEST) and R213 (MD5.HEXDIGEST), with FINALIZE of R203 written out. That the command leaves `inputs` is the
model's own choice, log entry 5. -/
def Obligations.HexdigestAtPort : Prop :=
  (∀ (s : State) (rest : List PortInput) (rsv1 src slot : BitVec 8) (rsv0 : BitVec 3) (p : List Byte),
    step { s with inputs := .command ⟨rsv1 ++ src ++ slot ++ rsv0 ++ 0#1 ++ 4#4, p⟩ :: rest } = .next
      (if rsv1 ≠ 0 ∨ rsv0 ≠ 0 ∨ src ≠ 0 ∨ p ≠ [] then { s with inputs := rest, rsp := some ⟨0x02, []⟩ }
      else match s.ctxSha[slot.toNat]? with
        | none => { s with inputs := rest, rsp := some ⟨0x03, []⟩ }
        | some none => { s with inputs := rest, rsp := some ⟨0x04, []⟩ }
        | some (some c) =>
          { s with
            inputs := rest
            rsp := some ⟨0x00, hex (sha256Out ((blocks (padSha c.buf c.cnt)).foldl sha256Compress c.sv))⟩ })) ∧
  ∀ (s : State) (rest : List PortInput) (rsv1 src slot : BitVec 8) (rsv0 : BitVec 3) (p : List Byte),
    step { s with inputs := .command ⟨rsv1 ++ src ++ slot ++ rsv0 ++ 1#1 ++ 4#4, p⟩ :: rest } = .next
      (if rsv1 ≠ 0 ∨ rsv0 ≠ 0 ∨ src ≠ 0 ∨ p ≠ [] then { s with inputs := rest, rsp := some ⟨0x02, []⟩ }
      else match s.ctxMd5[slot.toNat]? with
        | none => { s with inputs := rest, rsp := some ⟨0x03, []⟩ }
        | some none => { s with inputs := rest, rsp := some ⟨0x04, []⟩ }
        | some (some c) =>
          { s with
            inputs := rest
            rsp := some ⟨0x00, hex (md5Out ((blocks (padMd5 c.buf c.cnt)).foldl md5Compress c.sv))⟩ })

/-- R214 (SHA256.COPY) and R215 (MD5.COPY): SLOT is the destination, SRC the source. That the command leaves `inputs` is the model's own
choice, log entry 5. -/
def Obligations.CopyAtPort : Prop :=
  (∀ (s : State) (rest : List PortInput) (rsv1 src slot : BitVec 8) (rsv0 : BitVec 3) (p : List Byte),
    step { s with inputs := .command ⟨rsv1 ++ src ++ slot ++ rsv0 ++ 0#1 ++ 5#4, p⟩ :: rest } = .next
      (if rsv1 ≠ 0 ∨ rsv0 ≠ 0 ∨ p ≠ [] then { s with inputs := rest, rsp := some ⟨0x02, []⟩ }
      else if s.ctxSha.length ≤ slot.toNat then { s with inputs := rest, rsp := some ⟨0x03, []⟩ }
      else match s.ctxSha[src.toNat]? with
        | none => { s with inputs := rest, rsp := some ⟨0x03, []⟩ }
        | some none => { s with inputs := rest, rsp := some ⟨0x04, []⟩ }
        | some (some c) =>
          { s with
            inputs := rest
            rsp := some ⟨0x00, []⟩
            ctxSha := s.ctxSha.set slot.toNat (some { sv := c.sv, buf := c.buf, cnt := c.cnt }) })) ∧
  ∀ (s : State) (rest : List PortInput) (rsv1 src slot : BitVec 8) (rsv0 : BitVec 3) (p : List Byte),
    step { s with inputs := .command ⟨rsv1 ++ src ++ slot ++ rsv0 ++ 1#1 ++ 5#4, p⟩ :: rest } = .next
      (if rsv1 ≠ 0 ∨ rsv0 ≠ 0 ∨ p ≠ [] then { s with inputs := rest, rsp := some ⟨0x02, []⟩ }
      else if s.ctxMd5.length ≤ slot.toNat then { s with inputs := rest, rsp := some ⟨0x03, []⟩ }
      else match s.ctxMd5[src.toNat]? with
        | none => { s with inputs := rest, rsp := some ⟨0x03, []⟩ }
        | some none => { s with inputs := rest, rsp := some ⟨0x04, []⟩ }
        | some (some c) =>
          { s with
            inputs := rest
            rsp := some ⟨0x00, []⟩
            ctxMd5 := s.ctxMd5.set slot.toNat (some { sv := c.sv, buf := c.buf, cnt := c.cnt }) })

/-! ## Each instruction completes

For a slot that exists (and is valid where the instruction reads it), exec answers the next state of the instruction's own
effect. -/

/-- SHA256.INIT and MD5.INIT complete on every existing slot, valid or not (R206, R207). -/
def Obligations.InitCompletes : Prop :=
  (∀ (s : State) (slot : Nat), slot < s.ctxSha.length →
    exec (.sha256Init slot) s = .next
      { s with ctxSha := s.ctxSha.set slot (some ⟨ivSha, [], 0⟩), rsp := some ⟨0x00, []⟩ }) ∧
  ∀ (s : State) (slot : Nat), slot < s.ctxMd5.length →
    exec (.md5Init slot) s = .next
      { s with ctxMd5 := s.ctxMd5.set slot (some ⟨ivMd5, [], 0⟩), rsp := some ⟨0x00, []⟩ }

/-- SHA256.UPDATE and MD5.UPDATE complete on every valid slot, for every payload (R201, R208, R209). -/
def Obligations.UpdateCompletes : Prop :=
  (∀ (s : State) (slot : Nat) (data : List Byte) (c : Ctx ShaVec), s.ctxSha[slot]? = some (some c) →
    exec (.sha256Update slot data) s = .next
      { s with
        ctxSha := s.ctxSha.set slot (some
          ⟨(blocks (c.buf ++ data)).foldl sha256Compress c.sv, leftover (c.buf ++ data),
            c.cnt + BitVec.ofNat 64 data.length⟩)
        rsp := some ⟨0x00, []⟩ }) ∧
  ∀ (s : State) (slot : Nat) (data : List Byte) (c : Ctx Md5Vec), s.ctxMd5[slot]? = some (some c) →
    exec (.md5Update slot data) s = .next
      { s with
        ctxMd5 := s.ctxMd5.set slot (some
          ⟨(blocks (c.buf ++ data)).foldl md5Compress c.sv, leftover (c.buf ++ data),
            c.cnt + BitVec.ofNat 64 data.length⟩)
        rsp := some ⟨0x00, []⟩ }

/-- SHA256.DIGEST and MD5.DIGEST complete on every valid slot (R203, R210, R211). -/
def Obligations.DigestCompletes : Prop :=
  (∀ (s : State) (slot : Nat) (c : Ctx ShaVec), s.ctxSha[slot]? = some (some c) →
    exec (.sha256Digest slot) s = .next
      { s with rsp := some ⟨0x00, sha256Out ((blocks (padSha c.buf c.cnt)).foldl sha256Compress c.sv)⟩ }) ∧
  ∀ (s : State) (slot : Nat) (c : Ctx Md5Vec), s.ctxMd5[slot]? = some (some c) →
    exec (.md5Digest slot) s = .next
      { s with rsp := some ⟨0x00, md5Out ((blocks (padMd5 c.buf c.cnt)).foldl md5Compress c.sv)⟩ }

/-- SHA256.HEXDIGEST and MD5.HEXDIGEST complete on every valid slot (R203, R205, R212, R213). -/
def Obligations.HexdigestCompletes : Prop :=
  (∀ (s : State) (slot : Nat) (c : Ctx ShaVec), s.ctxSha[slot]? = some (some c) →
    exec (.sha256Hexdigest slot) s = .next
      { s with rsp := some ⟨0x00, hex (sha256Out ((blocks (padSha c.buf c.cnt)).foldl sha256Compress c.sv))⟩ }) ∧
  ∀ (s : State) (slot : Nat) (c : Ctx Md5Vec), s.ctxMd5[slot]? = some (some c) →
    exec (.md5Hexdigest slot) s = .next
      { s with rsp := some ⟨0x00, hex (md5Out ((blocks (padMd5 c.buf c.cnt)).foldl md5Compress c.sv))⟩ }

/-- SHA256.COPY and MD5.COPY complete from every valid source to every existing destination, valid or not (R214, R215). -/
def Obligations.CopyCompletes : Prop :=
  (∀ (s : State) (dst src : Nat) (c : Ctx ShaVec), dst < s.ctxSha.length → s.ctxSha[src]? = some (some c) →
    exec (.sha256Copy dst src) s = .next
      { s with ctxSha := s.ctxSha.set dst (some c), rsp := some ⟨0x00, []⟩ }) ∧
  ∀ (s : State) (dst src : Nat) (c : Ctx Md5Vec), dst < s.ctxMd5.length → s.ctxMd5[src]? = some (some c) →
    exec (.md5Copy dst src) s = .next
      { s with ctxMd5 := s.ctxMd5.set dst (some c), rsp := some ⟨0x00, []⟩ }

/-! ## Errors of decoded commands -/

/-- R254: an instruction answers BAD_SLOT exactly when SLOT, or SRC for COPY, is NSLOT or more of its algorithm. -/
def Obligations.BadSlotExactly : Prop :=
  ∀ (i : Instr) (s t : State), exec i s = .next t →
    ((∃ n ∈ i.slots, s.nslot i.alg ≤ n) ↔ t.rsp = some ⟨0x03, []⟩)

/-- R255: an instruction answers NO_CONTEXT exactly when its slot operands all name slots and the slot it reads (the addressed slot
of UPDATE, DIGEST and HEXDIGEST, the source of COPY) has VALID = 0; INIT reads none. -/
def Obligations.NoContextExactly : Prop :=
  ∀ (i : Instr) (s t : State), exec i s = .next t →
    (((∀ n ∈ i.slots, n < s.nslot i.alg) ∧ ∃ n, i.slotRead = some n ∧ s.valid i.alg n = false) ↔
      t.rsp = some ⟨0x04, []⟩)

/-! ## Frames -/

/-- R22 for all ten instructions: a command changes at most the slot it writes (the addressed slot of INIT and UPDATE, the
destination of COPY, none for DIGEST and HEXDIGEST) of its own algorithm's file; every other slot of both files, both slot counts
and the port are unchanged. -/
def Obligations.CommandFrame : Prop :=
  ∀ (i : Instr) (s t : State), exec i s = .next t →
    t.inputs = s.inputs ∧ (∀ alg, t.nslot alg = s.nslot alg) ∧
      ∀ alg n, ¬ (alg = i.alg ∧ i.slotWritten = some n) → SameSlot alg n s t

/-- R204: DIGEST and HEXDIGEST, on success and on failure, write nothing but the response. -/
def Obligations.DigestWritesNoState : Prop :=
  ∀ (s t : State) (slot : Nat),
    (exec (.sha256Digest slot) s = .next t ∨ exec (.md5Digest slot) s = .next t ∨
      exec (.sha256Hexdigest slot) s = .next t ∨ exec (.md5Hexdigest slot) s = .next t) →
    { t with rsp := s.rsp } = s

/-- R25: no command makes a valid slot invalid; and a slot becomes valid only as the destination of a successful INIT or COPY. -/
def Obligations.ValidBitWriters : Prop :=
  ∀ (i : Instr) (s t : State), exec i s = .next t → ∀ alg n,
    (s.valid alg n = true → t.valid alg n = true) ∧
    (s.valid alg n = false → t.valid alg n = true →
      t.rsp = some ⟨0x00, []⟩ ∧ alg = i.alg ∧ n = i.slot ∧
        (i = .sha256Init n ∨ i = .md5Init n ∨ ∃ r, i = .sha256Copy n r ∨ i = .md5Copy n r))

/-- R20, R33: no step, not even a reset, changes the number of slots of either file. -/
def Obligations.SlotCountsNeverChange : Prop :=
  ∀ s t : State, step s = .next t → ∀ alg, t.nslot alg = s.nslot alg

/-! ## The datapath -/

/-- R109, R110 with the sigma functions of R106, R107: the schedule of a block. -/
def Obligations.ScheduleRecurrence : Prop :=
  ∀ blk : Block,
    (∀ (t : Nat) (_ : t < 16),
      (schedule blk)[t] = (blk[4 * t] ++ blk[4 * t + 1] ++ blk[4 * t + 2] ++ blk[4 * t + 3] : BitVec 32)) ∧
    ∀ (t : Nat) (_ : 16 ≤ t) (_ : t < 64),
      (schedule blk)[t] =
        ((schedule blk)[t - 2].rotateRight 17 ^^^ (schedule blk)[t - 2].rotateRight 19 ^^^ (schedule blk)[t - 2] >>> 10)
          + (schedule blk)[t - 7]
          + ((schedule blk)[t - 15].rotateRight 7 ^^^ (schedule blk)[t - 15].rotateRight 18 ^^^
              (schedule blk)[t - 15] >>> 3)
          + (schedule blk)[t - 16]

/-- R111 to R114 with the logic functions of R102 to R105: for every sequence of working variables that starts from the state vector
and takes each of the 64 rounds' equations, the compression adds the last of them into the state vector. -/
def Obligations.Sha256CompressionRounds : Prop :=
  ∀ (v : ShaVec) (blk : Block) (x : Nat → ShaWork),
    x 0 = ⟨v.h0, v.h1, v.h2, v.h3, v.h4, v.h5, v.h6, v.h7⟩ →
    (∀ (t : Nat) (_ : t < 64),
      let t1 := (x t).h
        + ((x t).e.rotateRight 6 ^^^ (x t).e.rotateRight 11 ^^^ (x t).e.rotateRight 25)
        + (((x t).e &&& (x t).f) ^^^ (~~~(x t).e &&& (x t).g)) + kRom[t] + (schedule blk)[t]
      let t2 := ((x t).a.rotateRight 2 ^^^ (x t).a.rotateRight 13 ^^^ (x t).a.rotateRight 22)
        + (((x t).a &&& (x t).b) ^^^ ((x t).a &&& (x t).c) ^^^ ((x t).b &&& (x t).c))
      x (t + 1) = ⟨t1 + t2, (x t).a, (x t).b, (x t).c, (x t).d + t1, (x t).e, (x t).f, (x t).g⟩) →
    sha256Compress v blk =
      ⟨v.h0 + (x 64).a, v.h1 + (x 64).b, v.h2 + (x 64).c, v.h3 + (x 64).d,
        v.h4 + (x 64).e, v.h5 + (x 64).f, v.h6 + (x 64).g, v.h7 + (x 64).h⟩

/-- R159 to R163 with the band functions of R154 to R157 and the formulas of R153 and R158: for every sequence of working variables
that starts from the state vector and takes each of the 64 rounds' equations, the compression adds the last of them into the state
vector. -/
def Obligations.Md5CompressionRounds : Prop :=
  ∀ (v : Md5Vec) (blk : Block) (x : Nat → Md5Work),
    x 0 = ⟨v.v0, v.v1, v.v2, v.v3⟩ →
    (∀ (i : Nat) (_ : i < 64),
      let f := if i < 16 then ((x i).b &&& (x i).c) ||| (~~~(x i).b &&& (x i).d)
        else if i < 32 then ((x i).b &&& (x i).d) ||| ((x i).c &&& ~~~(x i).d)
        else if i < 48 then (x i).b ^^^ (x i).c ^^^ (x i).d
        else (x i).c ^^^ ((x i).b ||| ~~~(x i).d)
      let j := midxFormula i
      let word : BitVec 32 := blk[4 * j.val + 3] ++ blk[4 * j.val + 2] ++ blk[4 * j.val + 1] ++ blk[4 * j.val]
      x (i + 1) = ⟨(x i).d, (x i).b + ((x i).a + f + tRom[i] + word).rotateLeft (shiftFormula i), (x i).b, (x i).c⟩) →
    md5Compress v blk = ⟨v.v0 + (x 64).a, v.v1 + (x 64).b, v.v2 + (x 64).c, v.v3 + (x 64).d⟩

/-- R10: ROTR and ROTL rotate a word for every amount strictly between 0 and 32. -/
def Obligations.RotationsRotate : Prop :=
  ∀ (x : Word) (n : Nat), 0 < n → n < 32 → ∀ i, i < 32 →
    (rotr x n).getLsbD i = x.getLsbD ((i + n) % 32) ∧ (rotl x n).getLsbD i = x.getLsbD ((i + 32 - n) % 32)

/-- R102, R103: each bit of Ch is y's where x's is 1 and z's where x's is 0; each bit of Maj is the majority of the three. F of MD5
equals Ch bit for bit (R154). -/
def Obligations.ChoiceAndMajorityBitwise : Prop :=
  (∀ (x y z : Word) (i : Nat), (ch x y z).getLsbD i = if x.getLsbD i then y.getLsbD i else z.getLsbD i) ∧
  (∀ (x y z : Word) (i : Nat), (maj x y z).getLsbD i =
    decide (2 ≤ (x.getLsbD i).toNat + (y.getLsbD i).toNat + (z.getLsbD i).toNat)) ∧
  ∀ x y z : Word, bandF x y z = ch x y z

/-- R11, R64, R66: the value of a word from its four bytes in each byte order, and the byte lists are the inverses. -/
def Obligations.BytePackingInverse : Prop :=
  (∀ b0 b1 b2 b3 : Byte,
    (be32 b0 b1 b2 b3).toNat = b0.toNat * 2 ^ 24 + b1.toNat * 2 ^ 16 + b2.toNat * 2 ^ 8 + b3.toNat ∧
    (le32 b0 b1 b2 b3).toNat = b3.toNat * 2 ^ 24 + b2.toNat * 2 ^ 16 + b1.toNat * 2 ^ 8 + b0.toNat ∧
    bytesBE32 (be32 b0 b1 b2 b3) = [b0, b1, b2, b3] ∧ bytesLE32 (le32 b0 b1 b2 b3) = [b0, b1, b2, b3]) ∧
  ∀ n : Count,
    bytesBE64 n = (List.range 8).map (fun k => BitVec.ofNat 8 (n.toNat / 256 ^ (7 - k))) ∧
    bytesLE64 n = (List.range 8).map (fun k => BitVec.ofNat 8 (n.toNat / 256 ^ k))

/-- R115, R116, R164, R165: the padded tail of 0 to 63 pending bytes: the bytes, 0x80, zeros, and the bit count modulo 2^64, most
significant byte first for SHA-256 and least significant first for MD5; one block up to 55 bytes and two from 56 on. -/
def Obligations.PaddedTails : Prop :=
  ∀ (buf : List Byte) (cnt : Count), buf.length < 64 →
    padSha buf cnt = buf ++ [0x80] ++
      List.replicate (if buf.length ≤ 55 then 55 - buf.length else 119 - buf.length) 0x00 ++
      (List.range 8).map (fun k => BitVec.ofNat 8 (cnt.toNat * 8 % 2 ^ 64 / 256 ^ (7 - k))) ∧
    padMd5 buf cnt = buf ++ [0x80] ++
      List.replicate (if buf.length ≤ 55 then 55 - buf.length else 119 - buf.length) 0x00 ++
      (List.range 8).map (fun k => BitVec.ofNat 8 (cnt.toNat * 8 % 2 ^ 64 / 256 ^ k)) ∧
    (padSha buf cnt).length = (if buf.length ≤ 55 then 64 else 128) ∧
    (padMd5 buf cnt).length = if buf.length ≤ 55 then 64 else 128

/-- R118, C7: a counter 2^61 bytes further gives the same digest, because the length field is reduced modulo 2^64. -/
def Obligations.LengthFieldReduced : Prop :=
  (∀ c : Ctx ShaVec, finalizeSha { c with cnt := c.cnt + BitVec.ofNat 64 (2 ^ 61) } = finalizeSha c) ∧
  ∀ c : Ctx Md5Vec, finalizeMd5 { c with cnt := c.cnt + BitVec.ofNat 64 (2 ^ 61) } = finalizeMd5 c

/-- R69, R201: a byte sequence is its floor(len / 64) blocks in order followed by the 0 to 63 bytes left over. -/
def Obligations.BlocksCutStream : Prop :=
  ∀ q : List Byte, ((blocks q).flatMap fun blk => blk.toList) ++ leftover q = q ∧
    (blocks q).length = q.length / 64 ∧ (leftover q).length = q.length % 64

/-- R205, R68: HEX gives two characters a byte, high nibble first: the digit 0x30+v of a nibble v below 10, the letter 0x61+(v-10) of
one from 10 to 15. -/
def Obligations.HexFormat : Prop :=
  ∀ bs : List Byte, (hex bs).length = 2 * bs.length ∧
    ∀ (k : Nat) (b : Byte), bs[k]? = some b →
      (hex bs)[2 * k]? = some (BitVec.ofNat 8 (if b.toNat / 16 < 10 then 0x30 + b.toNat / 16 else 0x61 + (b.toNat / 16 - 10))) ∧
      (hex bs)[2 * k + 1]? =
        some (BitVec.ofNat 8 (if b.toNat % 16 < 10 then 0x30 + b.toNat % 16 else 0x61 + (b.toNat % 16 - 10)))

/-- R117, R166: the bytes of the digest are the state words in order, four bytes each, big-endian for SHA-256 and little-endian for
MD5: byte 4j+k of the digest is the given byte of word j. -/
def Obligations.DigestByteOrder : Prop :=
  (∀ v : ShaVec, (sha256Out v).length = 32 ∧
    ∀ (j : Nat) (w : Word), [v.h0, v.h1, v.h2, v.h3, v.h4, v.h5, v.h6, v.h7][j]? = some w → ∀ k, k < 4 →
      (sha256Out v)[4 * j + k]? = some (BitVec.ofNat 8 (w.toNat / 256 ^ (3 - k)))) ∧
  ∀ v : Md5Vec, (md5Out v).length = 16 ∧
    ∀ (j : Nat) (w : Word), [v.v0, v.v1, v.v2, v.v3][j]? = some w → ∀ k, k < 4 →
      (md5Out v)[4 * j + k]? = some (BitVec.ofNat 8 (w.toNat / 256 ^ k))

/-! ## Responses -/

/-- R94: the length of the data of every response: none on failure; on success none for INIT, UPDATE and COPY, 32 and 16 bytes for
the digests, 64 and 32 for the hex digests. -/
def Obligations.ResponseLengths : Prop :=
  ∀ (i : Instr) (s t : State), exec i s = .next t →
    ∃ r, t.rsp = some r ∧ r.data.length = if r.status = 0x00 then i.answerLength else 0

/-- R212, R213: HEXDIGEST answers HEX of what DIGEST answers in the same state, and every byte of it is in 0x30..0x39 or 0x61..0x66. -/
def Obligations.HexdigestIsHexOfDigest : Prop :=
  ∀ (s t u : State) (slot : Nat),
    ((exec (.sha256Digest slot) s = .next t ∧ exec (.sha256Hexdigest slot) s = .next u) ∨
      (exec (.md5Digest slot) s = .next t ∧ exec (.md5Hexdigest slot) s = .next u)) →
    u.rsp = t.rsp.map (fun r => ⟨r.status, hex r.data⟩) ∧
      ∀ r, u.rsp = some r → ∀ b ∈ r.data, (0x30 ≤ b.toNat ∧ b.toNat ≤ 0x39) ∨ (0x61 ≤ b.toNat ∧ b.toNat ≤ 0x66)

/-- R24: no command's outcome depends on the response that stands when it is performed, so none depends on an earlier status. -/
def Obligations.OutcomeIgnoresOldResponse : Prop :=
  ∀ (i : Instr) (s : State) (r : Option Response), exec i { s with rsp := r } = exec i s

/-! ## Streams -/

/-- R202: absorbing a and then b is absorbing a ++ b, for every context of either algorithm and all byte sequences; so two UPDATEs of
one slot leave the same whole state as one UPDATE of the concatenation, whatever the state and the slot. -/
def Obligations.ChunkingTransparency : Prop :=
  ((∀ (c : Ctx ShaVec) (a b : List Byte),
      absorb sha256Compress (absorb sha256Compress c a) b = absorb sha256Compress c (a ++ b)) ∧
    ∀ (c : Ctx Md5Vec) (a b : List Byte),
      absorb md5Compress (absorb md5Compress c a) b = absorb md5Compress c (a ++ b)) ∧
  ∀ (s t : State) (slot : Nat) (a b : List Byte),
    (exec (.sha256Update slot a) s = .next t →
      exec (.sha256Update slot b) t = exec (.sha256Update slot (a ++ b)) s) ∧
    (exec (.md5Update slot a) s = .next t →
      exec (.md5Update slot b) t = exec (.md5Update slot (a ++ b)) s)

/-- R216: an empty UPDATE of a valid slot whose buffer holds fewer than 64 bytes (which every reachable one does) changes nothing and
answers OK; of any other slot it fails as R208 says. -/
def Obligations.EmptyUpdateChangesNothing : Prop :=
  (∀ (s : State) (slot : Nat),
    (∀ c : Ctx ShaVec, s.ctxSha[slot]? = some (some c) → c.buf.length < 64) →
    exec (.sha256Update slot []) s = .next
      { s with rsp := some ⟨if s.ctxSha.length ≤ slot then 0x03 else if s.valid .sha256 slot then 0x00 else 0x04, []⟩ }) ∧
  ∀ (s : State) (slot : Nat),
    (∀ c : Ctx Md5Vec, s.ctxMd5[slot]? = some (some c) → c.buf.length < 64) →
    exec (.md5Update slot []) s = .next
      { s with rsp := some ⟨if s.ctxMd5.length ≤ slot then 0x03 else if s.valid .md5 slot then 0x00 else 0x04, []⟩ }

/-- R27, R208: UPDATE of a valid slot adds len(data) to CNT modulo 2^64 and leaves (BLEN + len(data)) mod 64 bytes pending; when no
block completes it leaves the state vector alone and appends the data to the buffer. -/
def Obligations.UpdateCountsBytes : Prop :=
  (∀ (s t : State) (slot : Nat) (data : List Byte) (c : Ctx ShaVec),
    s.ctxSha[slot]? = some (some c) → exec (.sha256Update slot data) s = .next t →
    ∃ c', t.ctxSha[slot]? = some (some c') ∧ c'.cnt.toNat = (c.cnt.toNat + data.length) % 2 ^ 64 ∧
      c'.blen = (c.blen + data.length) % 64 ∧
      (c.blen + data.length < 64 → c'.sv = c.sv ∧ c'.buf = c.buf ++ data)) ∧
  ∀ (s t : State) (slot : Nat) (data : List Byte) (c : Ctx Md5Vec),
    s.ctxMd5[slot]? = some (some c) → exec (.md5Update slot data) s = .next t →
    ∃ c', t.ctxMd5[slot]? = some (some c') ∧ c'.cnt.toNat = (c.cnt.toNat + data.length) % 2 ^ 64 ∧
      c'.blen = (c.blen + data.length) % 64 ∧
      (c.blen + data.length < 64 → c'.sv = c.sv ∧ c'.buf = c.buf ++ data)

/-- R218: after a DIGEST or HEXDIGEST, the same command gives the same whole state again, and every command goes on from the same
state it would have had without the DIGEST or HEXDIGEST. -/
def Obligations.IdempotentFinalization : Prop :=
  ∀ (s t : State) (slot : Nat) (i : Instr),
    (i = .sha256Digest slot ∨ i = .md5Digest slot ∨ i = .sha256Hexdigest slot ∨ i = .md5Hexdigest slot) →
    exec i s = .next t → exec i t = .next t ∧ ∀ j, exec j t = exec j s

/-- R285: a COPY of a slot onto itself changes no slot, on success and on failure. -/
def Obligations.CopyOntoItself : Prop :=
  ∀ (s t : State) (slot : Nat),
    (exec (.sha256Copy slot slot) s = .next t ∨ exec (.md5Copy slot slot) s = .next t) → { t with rsp := s.rsp } = s

/-- R217: after a COPY between different slots, any number of commands addressed to the one leave the other as it was. -/
def Obligations.CopyIndependence : Prop :=
  (∀ (s t u : State) (d r : Nat) (c : Ctx ShaVec) (later : List Instr), d ≠ r → s.ctxSha[r]? = some (some c) →
    d < s.ctxSha.length → exec (.sha256Copy d r) s = .next t → execAll later t = some u →
    ((∀ j ∈ later, j.alg = .sha256 ∧ j.slot = d) → u.ctxSha[r]? = some (some c)) ∧
    ((∀ j ∈ later, j.alg = .sha256 ∧ j.slot = r) → u.ctxSha[d]? = some (some c))) ∧
  ∀ (s t u : State) (d r : Nat) (c : Ctx Md5Vec) (later : List Instr), d ≠ r → s.ctxMd5[r]? = some (some c) →
    d < s.ctxMd5.length → exec (.md5Copy d r) s = .next t → execAll later t = some u →
    ((∀ j ∈ later, j.alg = .md5 ∧ j.slot = d) → u.ctxMd5[r]? = some (some c)) ∧
    ((∀ j ∈ later, j.alg = .md5 ∧ j.slot = r) → u.ctxMd5[d]? = some (some c))

/-- R63: whatever streams the valid slots hold, after any command they hold those streams with the command's own effect: INIT an empty
one, UPDATE the payload appended, COPY the source's; a failed command changes none. -/
def Obligations.StreamsFollowCommands : Prop :=
  ∀ (s t : State) (m : Alg → Nat → List Byte) (i : Instr) (r : Response),
    Tracks s m → exec i s = .next t → t.rsp = some r → Tracks t (if r.status = 0x00 then streamsAfter m i else m)

/-- R219, R203: DIGEST of a slot that holds stream m answers OUT of the compression folded, from the initial vector, over the blocks of
m and its padding, whatever the payloads it came in and whether the slot was filled by UPDATE or by COPY. -/
def Obligations.DigestOfStream : Prop :=
  (∀ (s : State) (slot : Nat) (c : Ctx ShaVec) (m : List Byte), s.ctxSha[slot]? = some (some c) →
    HoldsStream ivSha sha256Compress c m →
    exec (.sha256Digest slot) s = .next { s with rsp := some ⟨0x00, sha256Stream m⟩ }) ∧
  ∀ (s : State) (slot : Nat) (c : Ctx Md5Vec) (m : List Byte), s.ctxMd5[slot]? = some (some c) →
    HoldsStream ivMd5 md5Compress c m →
    exec (.md5Digest slot) s = .next { s with rsp := some ⟨0x00, md5Stream m⟩ }

/-- R93 with R219: the pseudo-instruction hexof, in any state and any existing slot, ends with the hex of the digest of its bytes. -/
def Obligations.HexofIsOneShotDigest : Prop :=
  ∀ (s : State) (slot : Nat) (data : AsmBytes),
    (slot < s.ctxSha.length → ∃ t, execAll (Pseudo.hexof .sha256 slot data).expand s = some t ∧
      t.rsp = some ⟨0x00, hex (sha256Stream data.eval)⟩) ∧
    (slot < s.ctxMd5.length → ∃ t, execAll (Pseudo.hexof .md5 slot data).expand s = some t ∧
      t.rsp = some ⟨0x00, hex (md5Stream data.eval)⟩)

/-! ## Isolation -/

/-- R22, R83: a command of one algorithm neither reads nor writes the other's slot file: with any other contents there, it gives the
same state with those contents. -/
def Obligations.AlgorithmsShareNoState : Prop :=
  ∀ (i : Instr) (s t : State), exec i s = .next t →
    (i.alg = .sha256 → ∀ file : SlotFile Md5Vec, exec i { s with ctxMd5 := file } = .next { t with ctxMd5 := file }) ∧
    (i.alg = .md5 → ∀ file : SlotFile ShaVec, exec i { s with ctxSha := file } = .next { t with ctxSha := file })

/-- R22: in two states with the same slot counts that agree on the one slot a command reads, the command gives the same response, and
on success the same contents of the slot it writes; nothing in any other slot can be learnt through it. -/
def Obligations.CommandSeesOnlyItsSlot : Prop :=
  ∀ (i : Instr) (s s' t t' : State), (∀ alg, s.nslot alg = s'.nslot alg) →
    (∀ n, i.slotRead = some n → SameSlot i.alg n s s') → exec i s = .next t → exec i s' = .next t' →
    t.rsp = t'.rsp ∧ ∀ r n, t.rsp = some r → r.status = 0x00 → i.slotWritten = some n → SameSlot i.alg n t t'

/-- R73 with R22: two commands commute when neither writes a slot of the file that the other names, so a slot they share is at most
read by both (two COPYs from one source, a DIGEST beside a HEXDIGEST): both orders leave the same slots, and each command gives the
same response in both orders. -/
def Obligations.CommandsToDifferentSlotsCommute : Prop :=
  ∀ (i j : Instr) (s ti tij tj tji : State), (i.alg = j.alg →
      (∀ n, i.slotWritten = some n → n ∉ j.slots) ∧ ∀ n, j.slotWritten = some n → n ∉ i.slots) →
    exec i s = .next ti → exec j ti = .next tij → exec j s = .next tj → exec i tj = .next tji →
    tij.ctxSha = tji.ctxSha ∧ tij.ctxMd5 = tji.ctxMd5 ∧ tij.inputs = tji.inputs ∧ ti.rsp = tji.rsp ∧ tij.rsp = tj.rsp

/-! ## The invariant -/

/-- The reset state meets the invariant (R32, R8). -/
def Obligations.InvariantAtReset : Prop := State.reset.Inv

/-- Every step from every state that meets the invariant gives one that meets it: the slot files keep 1 to 256 slots (R8), every valid
context has 0 to 63 bytes pending (R26) and BLEN = CNT mod 64 (R28), and the response is one the block can give (R94, R251). -/
def Obligations.InvariantKept : Prop :=
  ∀ s t : State, s.Inv → step s = .next t → t.Inv
end

