-- ==== Sys2Proof/Laws/Decode.lean ====
section
/-! SUPPORT. The fields of a packed command word, and the codes of operations and algorithms read back. -/

namespace Sys2Proof

section
variable (rsv1 src slot : BitVec 8) (rsv0 : BitVec 3) (alg : BitVec 1) (op : BitVec 4)

theorem opField_pack : opField (packFields rsv1 src slot rsv0 alg op) = op := by
  ext i hi
  simp only [opField, packFields, BitVec.getElem_extractLsb', BitVec.getLsbD_append]
  simp [hi]

theorem algField_pack : algField (packFields rsv1 src slot rsv0 alg op) = alg := by
  ext i hi
  simp only [algField, packFields, BitVec.getElem_extractLsb', BitVec.getLsbD_append]
  simp [hi]

theorem rsv0Field_pack : rsv0Field (packFields rsv1 src slot rsv0 alg op) = rsv0 := by
  ext i hi
  simp only [rsv0Field, packFields, BitVec.getElem_extractLsb', BitVec.getLsbD_append]
  have h1 : ¬ 5 + i < 4 := by omega
  have h2 : ¬ 5 + i - 4 < 1 := by omega
  have h3 : 5 + i - 4 - 1 = i := by omega
  simp [h1, h2, h3, hi]

theorem slotField_pack : slotField (packFields rsv1 src slot rsv0 alg op) = slot := by
  ext i hi
  simp only [slotField, packFields, BitVec.getElem_extractLsb', BitVec.getLsbD_append]
  have h1 : ¬ 8 + i < 4 := by omega
  have h2 : ¬ 8 + i - 4 < 1 := by omega
  have h3 : ¬ 8 + i - 4 - 1 < 3 := by omega
  have h4 : 8 + i - 4 - 1 - 3 = i := by omega
  simp [h1, h2, h3, h4, hi]

theorem srcField_pack : srcField (packFields rsv1 src slot rsv0 alg op) = src := by
  ext i hi
  simp only [srcField, packFields, BitVec.getElem_extractLsb', BitVec.getLsbD_append]
  have h1 : ¬ 16 + i < 4 := by omega
  have h2 : ¬ 16 + i - 4 < 1 := by omega
  have h3 : ¬ 16 + i - 4 - 1 < 3 := by omega
  have h4 : ¬ 16 + i - 4 - 1 - 3 < 8 := by omega
  have h5 : 16 + i - 4 - 1 - 3 - 8 = i := by omega
  simp [h1, h2, h3, h4, h5, hi]

theorem rsv1Field_pack : rsv1Field (packFields rsv1 src slot rsv0 alg op) = rsv1 := by
  ext i hi
  simp only [rsv1Field, packFields, BitVec.getElem_extractLsb', BitVec.getLsbD_append]
  have h1 : ¬ 24 + i < 4 := by omega
  have h2 : ¬ 24 + i - 4 < 1 := by omega
  have h3 : ¬ 24 + i - 4 - 1 < 3 := by omega
  have h4 : ¬ 24 + i - 4 - 1 - 3 < 8 := by omega
  have h5 : ¬ 24 + i - 4 - 1 - 3 - 8 < 8 := by omega
  have h6 : 24 + i - 4 - 1 - 3 - 8 - 8 = i := by omega
  simp [h1, h2, h3, h4, h5, h6, hi]

end

theorem and_getLsbD_of_eq {w : BitVec 32} {p : Prop} [Decidable p] {i j : Nat} (hp : p) (hj : j = i) :
    (decide p && w.getLsbD j) = w.getLsbD i := by
  simp [hp, hj]

/-- A word is its six fields packed. -/
theorem pack_fields (w : BitVec 32) :
    packFields (rsv1Field w) (srcField w) (slotField w) (rsv0Field w) (algField w) (opField w) = w := by
  apply BitVec.eq_of_getLsbD_eq
  intro i hi
  simp only [packFields, rsv1Field, srcField, slotField, rsv0Field, algField, opField, BitVec.getLsbD_append,
    BitVec.getLsbD_extractLsb']
  split_ifs <;> exact and_getLsbD_of_eq (by omega) (by omega)

/-- The decoder on a word packed from its fields. -/
theorem decode_pack (rsv1 src slot : BitVec 8) (rsv0 : BitVec 3) (alg : BitVec 1) (op : BitVec 4) (p : List Byte) :
    decode ⟨packFields rsv1 src slot rsv0 alg op, p⟩ =
      match Op.ofCode op with
      | none => .illegalCommand .reservedOp
      | some op =>
        if rsv0 ≠ 0 ∨ rsv1 ≠ 0 then .illegalCommand .reservedBits
        else if op ≠ .copy ∧ src ≠ 0 then .illegalCommand .sourceNotZero
        else if op ≠ .update ∧ p ≠ [] then .illegalCommand .payloadNotEmpty
        else .instr (instrOf op (Alg.ofBit alg) slot.toNat src.toNat p) := by
  unfold decode
  simp only [opField_pack, algField_pack, rsv0Field_pack, slotField_pack, srcField_pack, rsv1Field_pack] <;> rfl

theorem ofCode_code (op : Op) : Op.ofCode op.code = some op := by cases op <;> rfl

theorem ofCode_eq_some {c : BitVec 4} {op : Op} (h : Op.ofCode c = some op) : c = op.code := by
  revert h
  unfold Op.ofCode
  split_ifs <;> intro h <;> simp_all <;> subst h <;> rfl

theorem ofBit_bit (alg : Alg) : Alg.ofBit alg.bit = alg := by cases alg <;> rfl

theorem bit_ofBit (b : BitVec 1) : (Alg.ofBit b).bit = b := by
  revert b; decide

end Sys2Proof
end

