-- ==== Sys2Proof/Laws/State.lean ====
section
/-! SUPPORT. What each update of the state does to each field, so that no proof unfolds a record update. -/

namespace Sys2Proof.Machine

@[simp] theorem State.respond_ctxSha (s : State) (st : Status) (d : List Byte) : (s.respond st d).ctxSha = s.ctxSha := rfl
@[simp] theorem State.respond_ctxMd5 (s : State) (st : Status) (d : List Byte) : (s.respond st d).ctxMd5 = s.ctxMd5 := rfl
@[simp] theorem State.respond_inputs (s : State) (st : Status) (d : List Byte) : (s.respond st d).inputs = s.inputs := rfl
@[simp] theorem State.respond_rsp (s : State) (st : Status) (d : List Byte) :
    (s.respond st d).rsp = some ⟨st.byte, d⟩ := rfl

@[simp] theorem State.fail_ctxSha (s : State) (e : Status) : (s.fail e).ctxSha = s.ctxSha := rfl
@[simp] theorem State.fail_ctxMd5 (s : State) (e : Status) : (s.fail e).ctxMd5 = s.ctxMd5 := rfl
@[simp] theorem State.fail_inputs (s : State) (e : Status) : (s.fail e).inputs = s.inputs := rfl
@[simp] theorem State.fail_rsp (s : State) (e : Status) : (s.fail e).rsp = some ⟨e.byte, []⟩ := rfl

@[simp] theorem State.present_ctxSha (s : State) (c : Command) : (s.present c).ctxSha = s.ctxSha := rfl
@[simp] theorem State.present_ctxMd5 (s : State) (c : Command) : (s.present c).ctxMd5 = s.ctxMd5 := rfl
@[simp] theorem State.present_inputs (s : State) (c : Command) : (s.present c).inputs = .command c :: s.inputs := rfl
@[simp] theorem State.present_rsp (s : State) (c : Command) : (s.present c).rsp = s.rsp := rfl

@[simp] theorem State.performReset_ctxSha (s : State) :
    s.performReset.ctxSha = List.replicate s.ctxSha.length none := rfl
@[simp] theorem State.performReset_ctxMd5 (s : State) :
    s.performReset.ctxMd5 = List.replicate s.ctxMd5.length none := rfl
@[simp] theorem State.performReset_inputs (s : State) : s.performReset.inputs = s.inputs := rfl
@[simp] theorem State.performReset_rsp (s : State) : s.performReset.rsp = none := rfl

@[simp] theorem Status.byte_ok : Status.ok.byte = 0x00 := rfl
@[simp] theorem Status.byte_illegalCommand : Status.illegalCommand.byte = 0x02 := rfl
@[simp] theorem Status.byte_badSlot : Status.badSlot.byte = 0x03 := rfl
@[simp] theorem Status.byte_noContext : Status.noContext.byte = 0x04 := rfl

/-- Taking an input from an empty port. -/
theorem takeInput_nil {s : State} (h : s.inputs = []) : s.takeInput = none := by
  simp [State.takeInput, h]

/-- Taking an input removes it from the port and changes nothing else. -/
theorem takeInput_cons {s : State} {x : PortInput} {rest : List PortInput} (h : s.inputs = x :: rest) :
    s.takeInput = some (x, { s with inputs := rest }) := by
  simp [State.takeInput, h]

end Sys2Proof.Machine
end

