-- ==== Sys2Proof/Laws/Ops.lean ====
section
/-! SUPPORT. For each shared operation of Machine/Operands.lean and Machine/Ops.lean, one lemma that says everything it can
answer; proofs cite these and do not unfold the operation. -/

namespace Sys2Proof.Machine

variable {SV : Type}

/-! ## Operands -/

theorem checkSlot_eq_ok {f : SlotFile SV} {n : Nat} {u : Unit} : checkSlot f n = .ok u ↔ n < f.length := by
  unfold checkSlot; split <;> simp_all

theorem checkSlot_eq_error {f : SlotFile SV} {n : Nat} {e : Status} :
    checkSlot f n = .error e ↔ f.length ≤ n ∧ e = .badSlot := by
  unfold checkSlot
  split
  · simp; omega
  · simp only [Except.error.injEq]; exact ⟨fun h => ⟨by omega, h.symm⟩, fun h => h.2.symm⟩

theorem readSlot_eq_ok {f : SlotFile SV} {n : Nat} {c : Ctx SV} : readSlot f n = .ok c ↔ f[n]? = some (some c) := by
  unfold readSlot; split <;> simp_all

theorem readSlot_eq_error {f : SlotFile SV} {n : Nat} {e : Status} :
    readSlot f n = .error e ↔ (f.length ≤ n ∧ e = .badSlot) ∨ (f[n]? = some none ∧ e = .noContext) := by
  unfold readSlot
  split
  · rename_i h; simp_all [eq_comm]
  · rename_i h
    have := (List.getElem?_eq_some_iff.mp h).1
    simp_all [eq_comm]
  · rename_i h
    have := (List.getElem?_eq_some_iff.mp h).1
    simp_all

/-! ## Slot-file operations -/

theorem initSlot_eq_ok {iv : SV} {f g : SlotFile SV} {n : Nat} :
    initSlot iv f n = .ok g ↔ n < f.length ∧ g = f.set n (some (freshCtx iv)) := by
  unfold initSlot checkSlot
  split <;> simp_all [Except.map, writeSlot, eq_comm]

theorem initSlot_eq_error {iv : SV} {f : SlotFile SV} {n : Nat} {e : Status} :
    initSlot iv f n = .error e ↔ f.length ≤ n ∧ e = .badSlot := by
  rw [← checkSlot_eq_error, initSlot]
  cases checkSlot f n <;> simp [Except.map]

theorem updateSlot_eq_ok {compress : SV → Block → SV} {f g : SlotFile SV} {n : Nat} {data : List Byte} :
    updateSlot compress f n data = .ok g ↔
      ∃ c, f[n]? = some (some c) ∧ g = f.set n (some (absorb compress c data)) := by
  simp only [← readSlot_eq_ok, updateSlot]
  cases readSlot f n <;> simp [Except.map, writeSlot, eq_comm]

theorem updateSlot_eq_error {compress : SV → Block → SV} {f : SlotFile SV} {n : Nat} {data : List Byte} {e : Status} :
    updateSlot compress f n data = .error e ↔ readSlot f n = .error e := by
  rw [updateSlot]
  cases readSlot f n <;> simp [Except.map]

theorem digestSlot_eq_ok {fin : Ctx SV → List Byte} {f : SlotFile SV} {n : Nat} {d : List Byte} :
    digestSlot fin f n = .ok d ↔ ∃ c, f[n]? = some (some c) ∧ d = fin c := by
  simp only [← readSlot_eq_ok, digestSlot]
  cases readSlot f n <;> simp [Except.map, eq_comm]

theorem digestSlot_eq_error {fin : Ctx SV → List Byte} {f : SlotFile SV} {n : Nat} {e : Status} :
    digestSlot fin f n = .error e ↔ readSlot f n = .error e := by
  rw [digestSlot]
  cases readSlot f n <;> simp [Except.map]

theorem hexdigestSlot_eq_ok {fin : Ctx SV → List Byte} {f : SlotFile SV} {n : Nat} {d : List Byte} :
    hexdigestSlot fin f n = .ok d ↔ ∃ c, f[n]? = some (some c) ∧ d = hex (fin c) := by
  simp only [← readSlot_eq_ok, hexdigestSlot]
  cases readSlot f n <;> simp [Except.map, eq_comm]

theorem hexdigestSlot_eq_error {fin : Ctx SV → List Byte} {f : SlotFile SV} {n : Nat} {e : Status} :
    hexdigestSlot fin f n = .error e ↔ readSlot f n = .error e := by
  rw [hexdigestSlot]
  cases readSlot f n <;> simp [Except.map]

theorem copySlot_eq_ok {f g : SlotFile SV} {d r : Nat} :
    copySlot f d r = .ok g ↔ d < f.length ∧ ∃ c, f[r]? = some (some c) ∧ g = f.set d (some c) := by
  simp only [← readSlot_eq_ok, copySlot, checkSlot]
  split <;> rename_i h <;> split at h <;> simp_all
  cases readSlot f r <;> simp [Except.map, writeSlot, eq_comm]

theorem copySlot_eq_error {f : SlotFile SV} {d r : Nat} {e : Status} :
    copySlot f d r = .error e ↔ (f.length ≤ d ∧ e = .badSlot) ∨ (d < f.length ∧ readSlot f r = .error e) := by
  by_cases h : d < f.length
  · have h' : ¬ f.length ≤ d := by omega
    simp only [copySlot, checkSlot, h, h', if_true, false_and, true_and, false_or]
    cases readSlot f r <;> simp [Except.map]
  · have h' : f.length ≤ d := by omega
    simp [copySlot, checkSlot, h, h', eq_comm]

/-! ## Ends of commands -/

theorem finishSha_eq_next {s t : State} {r : Except Status (SlotFile ShaVec)} :
    s.finishSha r = .next t ↔
      (∃ f, r = .ok f ∧ t = { s with ctxSha := f, rsp := some ⟨0x00, []⟩ }) ∨ ∃ e, r = .error e ∧ t = s.fail e := by
  cases r <;> simp [State.finishSha, State.respond, eq_comm]

theorem finishMd5_eq_next {s t : State} {r : Except Status (SlotFile Md5Vec)} :
    s.finishMd5 r = .next t ↔
      (∃ f, r = .ok f ∧ t = { s with ctxMd5 := f, rsp := some ⟨0x00, []⟩ }) ∨ ∃ e, r = .error e ∧ t = s.fail e := by
  cases r <;> simp [State.finishMd5, State.respond, eq_comm]

theorem answer_eq_next {s t : State} {r : Except Status (List Byte)} :
    s.answer r = .next t ↔
      (∃ d, r = .ok d ∧ t = { s with rsp := some ⟨0x00, d⟩ }) ∨ ∃ e, r = .error e ∧ t = s.fail e := by
  cases r <;> simp [State.answer, State.respond, eq_comm]

end Sys2Proof.Machine
end

