-- ==== Sys2Proof/Laws/Exec.lean ====
section
/-! SUPPORT. The one inversion lemma of exec: if an instruction answers a next state, either it succeeded, with its own effect, or it
failed with BAD_SLOT or NO_CONTEXT and changed nothing but the response. Whole-machine proofs cite this and split no meaning again. -/

namespace Sys2Proof.Machine

/-- The effect of an instruction that succeeds, with what it needs of the slots it names. -/
def Succeeds (s t : State) : Instr → Prop
  | .sha256Init n => n < s.ctxSha.length ∧
      t = { s with ctxSha := s.ctxSha.set n (some (freshCtx ivSha)), rsp := some ⟨0x00, []⟩ }
  | .md5Init n => n < s.ctxMd5.length ∧
      t = { s with ctxMd5 := s.ctxMd5.set n (some (freshCtx ivMd5)), rsp := some ⟨0x00, []⟩ }
  | .sha256Update n d => ∃ c, s.ctxSha[n]? = some (some c) ∧
      t = { s with ctxSha := s.ctxSha.set n (some (absorb sha256Compress c d)), rsp := some ⟨0x00, []⟩ }
  | .md5Update n d => ∃ c, s.ctxMd5[n]? = some (some c) ∧
      t = { s with ctxMd5 := s.ctxMd5.set n (some (absorb md5Compress c d)), rsp := some ⟨0x00, []⟩ }
  | .sha256Digest n => ∃ c, s.ctxSha[n]? = some (some c) ∧ t = { s with rsp := some ⟨0x00, finalizeSha c⟩ }
  | .md5Digest n => ∃ c, s.ctxMd5[n]? = some (some c) ∧ t = { s with rsp := some ⟨0x00, finalizeMd5 c⟩ }
  | .sha256Hexdigest n => ∃ c, s.ctxSha[n]? = some (some c) ∧ t = { s with rsp := some ⟨0x00, hex (finalizeSha c)⟩ }
  | .md5Hexdigest n => ∃ c, s.ctxMd5[n]? = some (some c) ∧ t = { s with rsp := some ⟨0x00, hex (finalizeMd5 c)⟩ }
  | .sha256Copy d r => d < s.ctxSha.length ∧ ∃ c, s.ctxSha[r]? = some (some c) ∧
      t = { s with ctxSha := s.ctxSha.set d (some c), rsp := some ⟨0x00, []⟩ }
  | .md5Copy d r => d < s.ctxMd5.length ∧ ∃ c, s.ctxMd5[r]? = some (some c) ∧
      t = { s with ctxMd5 := s.ctxMd5.set d (some c), rsp := some ⟨0x00, []⟩ }

/-- The error of an instruction that fails, with its cause. -/
def FailsWith (s : State) (i : Instr) (e : Status) : Prop :=
  (e = .badSlot ∧ ∃ n ∈ i.slots, s.nslot i.alg ≤ n) ∨
    (e = .noContext ∧ (∀ n ∈ i.slots, n < s.nslot i.alg) ∧ ∃ n, i.slotRead = some n ∧ s.valid i.alg n = false)

theorem readSlot_error_cause {SV : Type} {f : SlotFile SV} {n : Nat} {e : Status} (h : readSlot f n = .error e) :
    (e = .badSlot ∧ f.length ≤ n) ∨ (e = .noContext ∧ n < f.length ∧ (f[n]?.join).isSome = false) := by
  rcases readSlot_eq_error.mp h with ⟨hn, rfl⟩ | ⟨hn, rfl⟩
  · exact .inl ⟨rfl, hn⟩
  · exact .inr ⟨rfl, (List.getElem?_eq_some_iff.mp hn).1, by simp [hn]⟩

/-- Every instruction answers a next state in every state (R200). -/
theorem exec_next (i : Instr) (s : State) : ∃ t, exec i s = .next t := by
  cases i <;> exact ⟨_, rfl⟩

/-- If an instruction answers a next state, it succeeded or it failed; nothing else happens. -/
theorem exec_inversion {i : Instr} {s t : State} (h : exec i s = .next t) :
    Succeeds s t i ∨ ∃ e, FailsWith s i e ∧ t = s.fail e := by
  cases i <;>
    simp only [exec, execSha256Init, execMd5Init, execSha256Update, execMd5Update, execSha256Digest, execMd5Digest,
      execSha256Hexdigest, execMd5Hexdigest, execSha256Copy, execMd5Copy, finishSha_eq_next, finishMd5_eq_next,
      answer_eq_next, initSlot_eq_ok, initSlot_eq_error, updateSlot_eq_ok, updateSlot_eq_error, digestSlot_eq_ok,
      digestSlot_eq_error, hexdigestSlot_eq_ok, hexdigestSlot_eq_error, copySlot_eq_ok, copySlot_eq_error] at h
  case sha256Init | md5Init =>
    rcases h with ⟨f, ⟨hn, rfl⟩, ht⟩ | ⟨e, ⟨hn, rfl⟩, ht⟩
    · exact .inl ⟨hn, ht⟩
    · exact .inr ⟨_, .inl ⟨rfl, _, List.mem_cons_self, hn⟩, ht⟩
  case sha256Update | md5Update | sha256Digest | md5Digest | sha256Hexdigest | md5Hexdigest =>
    rcases h with ⟨f, ⟨c, hc, rfl⟩, ht⟩ | ⟨e, he, ht⟩
    · exact .inl ⟨c, hc, ht⟩
    · refine .inr ⟨e, ?_, ht⟩
      rcases readSlot_error_cause he with ⟨rfl, hn⟩ | ⟨rfl, hn, hv⟩
      · exact .inl ⟨rfl, _, List.mem_cons_self, hn⟩
      · exact .inr ⟨rfl, by simpa [Instr.slots, Instr.slot, Instr.source, Instr.alg, State.nslot] using hn, _, rfl, hv⟩
  case sha256Copy | md5Copy =>
    rcases h with ⟨f, ⟨hd, c, hc, rfl⟩, ht⟩ | ⟨e, he, ht⟩
    · exact .inl ⟨hd, c, hc, ht⟩
    · refine .inr ⟨e, ?_, ht⟩
      rcases he with ⟨hd, rfl⟩ | ⟨hd, he⟩
      · exact .inl ⟨rfl, _, List.mem_cons_self, hd⟩
      · rcases readSlot_error_cause he with ⟨rfl, hn⟩ | ⟨rfl, hn, hv⟩
        · exact .inl ⟨rfl, _, List.mem_cons_of_mem _ List.mem_cons_self, hn⟩
        · refine .inr ⟨rfl, ?_, _, rfl, hv⟩
          simpa [Instr.slots, Instr.slot, Instr.source, Instr.alg, State.nslot] using ⟨hd, hn⟩

end Sys2Proof.Machine
end

