-- ==== Sys2Proof/Laws/PerInstr.lean ====
section
/-! SUPPORT. Per-instruction facts about the syntax. Family RowMatch: the encoder's word of an instruction lies in the row of the
opcode map that carries the instruction's mnemonic (spec/30_encoding.md R89), for every operand, well-formed or not. -/

namespace Sys2Proof.Laws.RowMatch

/-- The encoded word hits the row of its mnemonic. -/
def Statement (i : Instr) : Prop :=
  ∃ row ∈ opcodeTable, row.mnemonic = i.mnemonic ∧ row.hits (encode i).word = true

/-- Masking a packed word masks its fields. -/
theorem pack_and (a b c a' b' c' : BitVec 8) (z z' : BitVec 3) (g g' : BitVec 1) (o o' : BitVec 4) :
    packFields a b c z g o &&& packFields a' b' c' z' g' o' =
      packFields (a &&& a') (b &&& b') (c &&& c') (z &&& z') (g &&& g') (o &&& o') := by
  apply BitVec.eq_of_getLsbD_eq
  intro i _
  simp only [packFields, BitVec.getLsbD_and, BitVec.getLsbD_append]
  split_ifs <;> rfl

/-- The mask of a row without SRC clears SLOT and keeps the rest. -/
theorem mask_slot (op : Op) (alg : Alg) (slot : Nat) :
    commandWord op alg slot 0 &&& 0xFFFF00FF = commandWord op alg 0 0 := by
  have m : (0xFFFF00FF : BitVec 32) = packFields 0xFF 0xFF 0 0x7 1 0xF := by decide
  rw [m, commandWord, pack_and]
  cases op <;> cases alg <;> simp [commandWord, Op.code, Alg.bit]

/-- The mask of a COPY row clears SLOT and SRC and keeps the rest. -/
theorem mask_copy (op : Op) (alg : Alg) (dst src : Nat) :
    commandWord op alg dst src &&& 0xFF0000FF = commandWord op alg 0 0 := by
  have m : (0xFF0000FF : BitVec 32) = packFields 0xFF 0 0 0x7 1 0xF := by decide
  rw [m, commandWord, pack_and]
  cases op <;> cases alg <;> simp [commandWord, Op.code, Alg.bit]

theorem hits_slot {row : OpcodeRow} {op : Op} {alg : Alg} (slot : Nat) (hm : row.mask = 0xFFFF00FF)
    (hp : row.pattern = commandWord op alg 0 0) : row.hits (commandWord op alg slot 0) = true := by
  rw [OpcodeRow.hits, hm, hp, mask_slot, beq_self_eq_true]

theorem hits_copy {row : OpcodeRow} {op : Op} {alg : Alg} (dst src : Nat) (hm : row.mask = 0xFF0000FF)
    (hp : row.pattern = commandWord op alg 0 0) : row.hits (commandWord op alg dst src) = true := by
  rw [OpcodeRow.hits, hm, hp, mask_copy, beq_self_eq_true]

theorem sha256Init (slot : Nat) : Statement (.sha256Init slot) :=
  ⟨_, List.getElem_mem (n := 0) (by decide), rfl, hits_slot slot rfl (by decide)⟩

theorem md5Init (slot : Nat) : Statement (.md5Init slot) :=
  ⟨_, List.getElem_mem (n := 1) (by decide), rfl, hits_slot slot rfl (by decide)⟩

theorem sha256Update (slot : Nat) (data : List Byte) : Statement (.sha256Update slot data) :=
  ⟨_, List.getElem_mem (n := 2) (by decide), rfl, hits_slot slot rfl (by decide)⟩

theorem md5Update (slot : Nat) (data : List Byte) : Statement (.md5Update slot data) :=
  ⟨_, List.getElem_mem (n := 3) (by decide), rfl, hits_slot slot rfl (by decide)⟩

theorem sha256Digest (slot : Nat) : Statement (.sha256Digest slot) :=
  ⟨_, List.getElem_mem (n := 4) (by decide), rfl, hits_slot slot rfl (by decide)⟩

theorem md5Digest (slot : Nat) : Statement (.md5Digest slot) :=
  ⟨_, List.getElem_mem (n := 5) (by decide), rfl, hits_slot slot rfl (by decide)⟩

theorem sha256Hexdigest (slot : Nat) : Statement (.sha256Hexdigest slot) :=
  ⟨_, List.getElem_mem (n := 6) (by decide), rfl, hits_slot slot rfl (by decide)⟩

theorem md5Hexdigest (slot : Nat) : Statement (.md5Hexdigest slot) :=
  ⟨_, List.getElem_mem (n := 7) (by decide), rfl, hits_slot slot rfl (by decide)⟩

theorem sha256Copy (dst src : Nat) : Statement (.sha256Copy dst src) :=
  ⟨_, List.getElem_mem (n := 8) (by decide), rfl, hits_copy dst src rfl (by decide)⟩

theorem md5Copy (dst src : Nat) : Statement (.md5Copy dst src) :=
  ⟨_, List.getElem_mem (n := 9) (by decide), rfl, hits_copy dst src rfl (by decide)⟩

end Sys2Proof.Laws.RowMatch
end

