-- ==== Sys2Proof/Laws/Stream.lean ====
section
/-! SUPPORT. The recursion equations of cutting a byte sequence into blocks, and the arithmetic of the zero fill. -/

namespace Sys2Proof.Machine

/-- The first block of a sequence that has one. -/
def firstBlock (q : List Byte) (h : 64 ≤ q.length) : Block := ⟨(q.take 64).toArray, by simp; omega⟩

theorem takeBlocks_congr {n m : Nat} {q : List Byte} (hn : 64 * n ≤ q.length) (hm : 64 * m ≤ q.length) (e : n = m) :
    takeBlocks n q hn = takeBlocks m q hm := by
  subst e; rfl

/-- A sequence shorter than a block has no block. -/
theorem blocks_of_lt {q : List Byte} (h : q.length < 64) : blocks q = [] :=
  takeBlocks_congr _ (by omega) (Nat.div_eq_of_lt h)

/-- A sequence with a block is its first block, then the blocks of the rest. -/
theorem blocks_of_le {q : List Byte} (h : 64 ≤ q.length) : blocks q = firstBlock q h :: blocks (q.drop 64) := by
  have e : q.length / 64 = (q.drop 64).length / 64 + 1 := by simp; omega
  rw [blocks, takeBlocks_congr _ (by simp; omega) e]
  rfl

theorem leftover_of_lt {q : List Byte} (h : q.length < 64) : leftover q = q := by
  simp [leftover, Nat.div_eq_of_lt h]

theorem leftover_of_le {q : List Byte} (h : 64 ≤ q.length) : leftover q = leftover (q.drop 64) := by
  simp only [leftover, List.drop_drop, List.length_drop]
  congr 1
  omega

theorem leftover_length (q : List Byte) : (leftover q).length = q.length % 64 := by
  simp only [leftover, List.length_drop]
  omega

/-- The zero fill brings a length to 56 modulo 64, with fewer than 64 bytes (R115). -/
theorem zeroFill_spec (n : Nat) : (n + zeroFill n) % 64 = 56 ∧ zeroFill n < 64 := by
  unfold zeroFill
  omega

@[simp] theorem bytesBE32_length (w : Word) : (bytesBE32 w).length = 4 := rfl
@[simp] theorem bytesLE32_length (w : Word) : (bytesLE32 w).length = 4 := rfl
@[simp] theorem bytesBE64_length (n : Count) : (bytesBE64 n).length = 8 := rfl
@[simp] theorem bytesLE64_length (n : Count) : (bytesLE64 n).length = 8 := rfl

end Sys2Proof.Machine
end

