-- ==== Sys2Proof/Machine/Assembler.lean ====
section
/-! DEFINITION. The assembler's text (spec/30_encoding.md R92, R93): writing an instruction or pseudo-instruction as a line, and
reading a line back. Notation only (92_eei_decisions.md D22); no step of the block uses it. -/

namespace Sys2Proof

/-- A line of assembler text: an instruction, or a pseudo-instruction that expands to some. -/
inductive AsmLine where
  | instr (i : Instr)
  | pseudo (p : Pseudo)
deriving DecidableEq, Repr

/-- The instructions of a line, run in order (R93). -/
def AsmLine.expand : AsmLine → List Instr
  | .instr i => [i]
  | .pseudo p => p.expand

/-! ## Writing -/

/-- `s<n>`: a slot operand. -/
def asmSlot (n : Nat) : String := "s" ++ toString n

/-- `x"<hex pairs>"`: literal bytes. -/
def asmHex (data : List Byte) : String :=
  "x\"" ++ String.ofList (data.flatMap fun b => [Nat.digitChar (b.toNat / 16), Nat.digitChar (b.toNat % 16)]) ++ "\""

/-- `<bytes>`: literals as hex pairs, repetition, concatenation. -/
def AsmBytes.asm : AsmBytes → String
  | .lit bytes => asmHex bytes
  | .times bytes count => bytes.asm ++ " * " ++ toString count
  | .append left right => left.asm ++ " ++ " ++ right.asm

/-- `<alg>`. -/
def Alg.asm : Alg → String
  | .sha256 => "sha256"
  | .md5 => "md5"

/-- The line of an instruction, destination first on COPY. -/
def Instr.asm : Instr → String
  | .sha256Init slot => "sha256.init " ++ asmSlot slot
  | .md5Init slot => "md5.init " ++ asmSlot slot
  | .sha256Update slot data => "sha256.update " ++ asmSlot slot ++ ", " ++ asmHex data
  | .md5Update slot data => "md5.update " ++ asmSlot slot ++ ", " ++ asmHex data
  | .sha256Digest slot => "sha256.digest " ++ asmSlot slot
  | .md5Digest slot => "md5.digest " ++ asmSlot slot
  | .sha256Hexdigest slot => "sha256.hexdigest " ++ asmSlot slot
  | .md5Hexdigest slot => "md5.hexdigest " ++ asmSlot slot
  | .sha256Copy dst src => "sha256.copy " ++ asmSlot dst ++ ", " ++ asmSlot src
  | .md5Copy dst src => "md5.copy " ++ asmSlot dst ++ ", " ++ asmSlot src

/-- The line of a pseudo-instruction (R93). -/
def Pseudo.asm : Pseudo → String
  | .new alg slot => alg.asm ++ ".new " ++ asmSlot slot
  | .newSeeded alg slot data => alg.asm ++ ".new " ++ asmSlot slot ++ ", " ++ data.asm
  | .hexof alg slot data => alg.asm ++ ".hexof " ++ asmSlot slot ++ ", " ++ data.asm

/-! ## Reading

Each reader takes the characters that remain and answers what it read and the rest, or none. Blanks between tokens are skipped
(log entry 11). -/

/-- The rest of the line after leading blanks. -/
def skipBlanks : List Char → List Char
  | ' ' :: cs => skipBlanks cs
  | cs => cs

/-- Read a given word. -/
def readWord : List Char → List Char → Option (List Char)
  | [], cs => some cs
  | w :: ws, c :: cs => if w = c then readWord ws cs else none
  | _ :: _, [] => none

/-- The value of a hex digit, of either case. -/
def hexValue (c : Char) : Option Nat :=
  if '0' ≤ c ∧ c ≤ '9' then some (c.toNat - 48)
  else if 'a' ≤ c ∧ c ≤ 'f' then some (c.toNat - 87)
  else if 'A' ≤ c ∧ c ≤ 'F' then some (c.toNat - 55)
  else none

/-- Read the decimal digits that continue a number. -/
def readDigits (value : Nat) : List Char → Nat × List Char
  | [] => (value, [])
  | c :: cs => if '0' ≤ c ∧ c ≤ '9' then readDigits (10 * value + (c.toNat - 48)) cs else (value, c :: cs)

/-- Read a decimal number of at least one digit. -/
def readNumber : List Char → Option (Nat × List Char)
  | [] => none
  | c :: cs => if '0' ≤ c ∧ c ≤ '9' then some (readDigits 0 (c :: cs)) else none

/-- Read `s<0..255>`. -/
def readSlotOperand (cs : List Char) : Option (Nat × List Char) := do
  let cs ← readWord ['s'] (skipBlanks cs)
  let (n, cs) ← readNumber cs
  if n < 256 then some (n, cs) else none

/-- Read the ASCII characters of a text up to its closing quote. -/
def readText : List Char → Option (List Byte × List Char)
  | [] => none
  | '"' :: cs => some ([], cs)
  | c :: cs => if c.toNat < 128 then (readText cs).map fun (bs, rest) => (BitVec.ofNat 8 c.toNat :: bs, rest) else none

/-- Read hex pairs up to the closing quote. -/
def readHexPairs : List Char → Option (List Byte × List Char)
  | '"' :: cs => some ([], cs)
  | hi :: lo :: cs => do
    let h ← hexValue hi
    let l ← hexValue lo
    let (bs, rest) ← readHexPairs cs
    some (BitVec.ofNat 8 (16 * h + l) :: bs, rest)
  | _ => none

/-- Read one literal: a text or hex pairs. -/
def readLiteral (cs : List Char) : Option (AsmBytes × List Char) :=
  match skipBlanks cs with
  | '"' :: cs => (readText cs).map fun (bs, rest) => (.lit bs, rest)
  | 'x' :: '"' :: cs => (readHexPairs cs).map fun (bs, rest) => (.lit bs, rest)
  | _ => none

/-- Read what may follow a bytes expression: repetitions of its last term, then concatenated terms. `done` is what stands left of
the last `++`; repetition binds tighter than concatenation (log entry 11). -/
def readBytesTail : (fuel : Nat) → (done : Option AsmBytes) → (term : AsmBytes) → List Char → Option (AsmBytes × List Char)
  | 0, _, _, _ => none
  | fuel + 1, done, term, cs =>
    let whole := match done with
      | none => term
      | some left => AsmBytes.append left term
    match skipBlanks cs with
    | '*' :: rest => do
      let (n, rest) ← readNumber (skipBlanks rest)
      readBytesTail fuel done (.times term n) rest
    | '+' :: '+' :: rest => do
      let (next, rest) ← readLiteral rest
      readBytesTail fuel (some whole) next rest
    | rest => some (whole, rest)

/-- Read `<bytes>`. -/
def readBytes (cs : List Char) : Option (AsmBytes × List Char) := do
  let (first, rest) ← readLiteral cs
  readBytesTail (rest.length + 1) none first rest

/-- Read the comma between operands. -/
def readComma (cs : List Char) : Option (List Char) := readWord [','] (skipBlanks cs)

/-- The end of a line: nothing but blanks. -/
def endOfLine {α : Type} (cs : List Char) (a : α) : Option α := if skipBlanks cs = [] then some a else none

/-- A line with one slot operand. -/
def readSlotLine (make : Nat → AsmLine) (cs : List Char) : Option AsmLine := do
  let (slot, cs) ← readSlotOperand cs
  endOfLine cs (make slot)

/-- A line with a slot and a bytes operand. -/
def readBytesLine (make : Nat → AsmBytes → AsmLine) (cs : List Char) : Option AsmLine := do
  let (slot, cs) ← readSlotOperand cs
  let cs ← readComma cs
  let (data, cs) ← readBytes cs
  endOfLine cs (make slot data)

/-- A line with a destination and a source slot. -/
def readCopyLine (make : Nat → Nat → AsmLine) (cs : List Char) : Option AsmLine := do
  let (dst, cs) ← readSlotOperand cs
  let cs ← readComma cs
  let (src, cs) ← readSlotOperand cs
  endOfLine cs (make dst src)

/-- Read an operation and its operands, for one algorithm. -/
def readOperation (alg : Alg) (cs : List Char) : Option AsmLine :=
  match readWord "init ".toList cs with
  | some cs => readSlotLine (fun slot => .instr (instrOf .init alg slot 0 [])) cs
  | none =>
  match readWord "update ".toList cs with
  | some cs => readBytesLine (fun slot data => .instr (instrOf .update alg slot 0 data.eval)) cs
  | none =>
  match readWord "digest ".toList cs with
  | some cs => readSlotLine (fun slot => .instr (instrOf .digest alg slot 0 [])) cs
  | none =>
  match readWord "hexdigest ".toList cs with
  | some cs => readSlotLine (fun slot => .instr (instrOf .hexdigest alg slot 0 [])) cs
  | none =>
  match readWord "copy ".toList cs with
  | some cs => readCopyLine (fun dst src => .instr (instrOf .copy alg dst src [])) cs
  | none =>
  match readWord "hexof ".toList cs with
  | some cs => readBytesLine (fun slot data => .pseudo (.hexof alg slot data)) cs
  | none =>
  match readWord "new ".toList cs with
  | some cs =>
    match readSlotLine (fun slot => .pseudo (.new alg slot)) cs with
    | some line => some line
    | none => readBytesLine (fun slot data => .pseudo (.newSeeded alg slot data)) cs
  | none => none

/-- Read a line of assembler text; none where it is not one (R92). -/
def assembleLine (line : String) : Option AsmLine :=
  match readWord "sha256.".toList (skipBlanks line.toList) with
  | some cs => readOperation .sha256 cs
  | none =>
    match readWord "md5.".toList (skipBlanks line.toList) with
    | some cs => readOperation .md5 cs
    | none => none

end Sys2Proof
end

