-- ==== Sys2Proof/Tests/Slice0.lean ====
section
/-! SUPPORT. The model's own tests, with expected values from spec/95_test_vectors.md and the tables of the other files of spec/,
and for every obligation with hypotheses a witness that meets them all. -/

namespace Sys2Proof.Tests

open Sys2Proof.Machine

/-- The next state of an outcome, if it is one. -/
def after : Host.Outcome State Fault Refusal → Option State
  | .next t => some t
  | .fault _ => none
  | .refused _ => none

/-- The response after an instruction. -/
def answerOf (i : Instr) (s : State) : Option Response := (after (exec i s)).bind State.rsp

/-- The status of the response to a command word and payload at the port of `s`. -/
def statusOf (w : BitVec 32) (payload : List Byte) (s : State) : Option Byte :=
  ((after (step (s.present ⟨w, payload⟩))).bind State.rsp).map Response.status

/-- Four slots in each file, as the vectors assume; slot 0 of each as given, the others invalid. -/
def four (sha : Option (Ctx ShaVec)) (md5 : Option (Ctx Md5Vec)) : State where
  ctxSha := [sha, none, none, none]
  ctxMd5 := [md5, none, none, none]
  inputs := []
  rsp := none

/-- The ASCII bytes of "abc". -/
def abc : List Byte := [0x61, 0x62, 0x63]

/-- n letters "a". -/
def as (n : Nat) : List Byte := List.replicate n 0x61

/-- Slots right after reset (R32). -/
def blank : State := four none none

/-- Slot 0 of each file holds the stream "abc". -/
def held : State := four (some ⟨ivSha, abc, 3⟩) (some ⟨ivMd5, abc, 3⟩)

/-- `held` with a command at the port. -/
def heldWith (w : BitVec 32) (payload : List Byte) : State := held.present ⟨w, payload⟩

/-- Bytes written as one big-endian number, as the digests of the vectors are. -/
def bytesOf (n v : Nat) : List Byte := (List.range n).map fun k => BitVec.ofNat 8 (v / 256 ^ (n - 1 - k))

/-! ## Well-formedness: each check of `Instr.wf` refuses a slot that its field cannot hold (R61, R84, R85) -/

theorem test_wf_refuses_slot_256 :
    (Instr.sha256Init 256).wf = false ∧ (Instr.md5Init 256).wf = false ∧ (Instr.sha256Update 256 abc).wf = false ∧
    (Instr.md5Update 256 abc).wf = false ∧ (Instr.sha256Digest 256).wf = false ∧ (Instr.md5Digest 256).wf = false ∧
    (Instr.sha256Hexdigest 256).wf = false ∧ (Instr.md5Hexdigest 256).wf = false := by decide

theorem test_wf_refuses_copy_256 :
    (Instr.sha256Copy 256 0).wf = false ∧ (Instr.sha256Copy 0 256).wf = false ∧
    (Instr.md5Copy 256 0).wf = false ∧ (Instr.md5Copy 0 256).wf = false := by decide

/-- The largest operands are well formed: a witness of DecodeOfEncode for every constructor. -/
theorem witness_DecodeOfEncode :
    [Instr.sha256Init 255, .md5Init 255, .sha256Update 255 abc, .md5Update 255 abc, .sha256Digest 255, .md5Digest 255,
      .sha256Hexdigest 255, .md5Hexdigest 255, .sha256Copy 255 255, .md5Copy 255 255].all Instr.wf = true := by decide

/-! ## Decoding: words written out from R81 and R89 (V5.1, V5.2) -/

/-- V5.1, one word for each constructor. -/
theorem test_decode_words :
    decode ⟨0x00000001, []⟩ = .instr (.sha256Init 0) ∧ decode ⟨0x00000111, []⟩ = .instr (.md5Init 1) ∧
    decode ⟨0x0000ff02, abc⟩ = .instr (.sha256Update 255 abc) ∧ decode ⟨0x00000312, abc⟩ = .instr (.md5Update 3 abc) ∧
    decode ⟨0x00000203, []⟩ = .instr (.sha256Digest 2) ∧ decode ⟨0x00000013, []⟩ = .instr (.md5Digest 0) ∧
    decode ⟨0x00000104, []⟩ = .instr (.sha256Hexdigest 1) ∧ decode ⟨0x00000214, []⟩ = .instr (.md5Hexdigest 2) ∧
    decode ⟨0x00ff0005, []⟩ = .instr (.sha256Copy 0 255) ∧ decode ⟨0x00010215, []⟩ = .instr (.md5Copy 2 1) := by decide

/-- V5.1's word of a COPY bit by bit: RSV1 00000000, SRC 00000001, SLOT 00000010, RSV0 000, ALG 1, OP 0101. -/
theorem test_decode_bits : decode ⟨0b00000000_00000001_00000010_000_1_0101#32, []⟩ = .instr (.md5Copy 2 1) := by decide

/-- V5.2, with the cause it gives. -/
theorem test_decode_illegal :
    decode ⟨0x00000000, []⟩ = .illegalCommand .reservedOp ∧ decode ⟨0x00000010, []⟩ = .illegalCommand .reservedOp ∧
    decode ⟨0x00000006, []⟩ = .illegalCommand .reservedOp ∧ decode ⟨0x0000001f, []⟩ = .illegalCommand .reservedOp ∧
    decode ⟨0x00000021, []⟩ = .illegalCommand .reservedBits ∧ decode ⟨0x000000e3, []⟩ = .illegalCommand .reservedBits ∧
    decode ⟨0x01000001, []⟩ = .illegalCommand .reservedBits ∧ decode ⟨0x80000005, []⟩ = .illegalCommand .reservedBits ∧
    decode ⟨0x00010001, []⟩ = .illegalCommand .sourceNotZero ∧
    decode ⟨0x00010002, [0x61]⟩ = .illegalCommand .sourceNotZero ∧
    decode ⟨0x00000001, [0x78]⟩ = .illegalCommand .payloadNotEmpty ∧
    decode ⟨0x00000003, [0x78]⟩ = .illegalCommand .payloadNotEmpty ∧
    decode ⟨0x00000105, [0x78]⟩ = .illegalCommand .payloadNotEmpty := by decide

/-- The table's rows (R89) with slot fields zero; a word whose bits do not fit is none. -/
theorem test_table_words :
    decodeTableWord 32 0x00000015 = some (.md5Copy 0 0) ∧ decodeTableWord 32 0x00000002 = some (.sha256Update 0 []) ∧
    decodeTableWord 32 0x00000006 = none ∧ decodeTableWord 40 0x100000001 = none := by decide

/-- The very next step runs a placed table word, and the response is the command's: MD5.INIT of slot 0. -/
theorem test_withFetchWord :
    after (step (blank.withFetchWord 32 0x11)) = some { four none (some ⟨ivMd5, [], 0⟩) with rsp := some ⟨0, []⟩ } := by
  decide +kernel

/-- R92's forms and the word R92 gives `md5.copy s2, s1`; a slot above 255 is no line. -/
theorem test_assembler :
    (assembleLine "md5.copy s2, s1").map AsmLine.expand = some [.md5Copy 2 1] ∧
    (encode (.md5Copy 2 1)).word = 0x00010215 ∧ (Instr.md5Copy 2 1).asm = "md5.copy s2, s1" ∧
    (assembleLine "sha256.update s17, x\"616263\"").map AsmLine.expand = some [.sha256Update 17 abc] ∧
    (assembleLine "md5.update s0, \"a\" * 3 ++ \"bc\"").map AsmLine.expand = some [.md5Update 0 [0x61, 0x61, 0x61, 0x62, 0x63]] ∧
    assembleLine "sha256.init s256" = none := by decide +kernel

/-- R93's expansions. -/
theorem test_pseudo :
    (assembleLine "md5.hexof s2, \"abc\"").map AsmLine.expand = some [.md5Init 2, .md5Update 2 abc, .md5Hexdigest 2] ∧
    (assembleLine "sha256.new s1").map AsmLine.expand = some [.sha256Init 1] ∧
    (assembleLine "sha256.new s1, \"abc\"").map AsmLine.expand = some [.sha256Init 1, .sha256Update 1 abc] := by
  decide +kernel

/-! ## Words and bytes (V2.1, V2.2, V6.8) -/

theorem test_rotations :
    rotl 0x80000001 1 = 0x00000003 ∧ rotl 0x12345678 7 = 0x1a2b3c09 ∧ rotl 0x12345678 23 = 0x3c091a2b ∧
    rotr 0x00000001 1 = 0x80000000 ∧ rotr 0x12345678 7 = 0xf02468ac ∧ shr 0xffffffff 3 = 0x1fffffff := by decide

theorem test_packing :
    be32 0x61 0x62 0x63 0x80 = 0x61626380 ∧ le32 0x61 0x62 0x63 0x80 = 0x80636261 ∧
    bytesBE32 0xba7816bf = [0xba, 0x78, 0x16, 0xbf] ∧ bytesLE32 0x98500190 = [0x90, 0x01, 0x50, 0x98] := by decide

theorem test_hex :
    hex [0xe3, 0xb0] = [0x65, 0x33, 0x62, 0x30] ∧ hex [0x0c, 0xc1] = [0x30, 0x63, 0x63, 0x31] ∧
    hex [0xff, 0x00] = [0x66, 0x66, 0x30, 0x30] := by decide

/-! ## The constant tables (R100, R101, R151 with V4.2, R153, R158) -/

/-- The first 64 primes. -/
def primes : List Nat := (List.range 312).filter fun n => 2 ≤ n && (List.range n).all fun d => d < 2 || n % d != 0

/-- R100: an initial word is the first 32 bits of the fractional part of a prime's square root. -/
theorem test_iv_square_roots :
    (List.zip primes [ivSha.h0, ivSha.h1, ivSha.h2, ivSha.h3, ivSha.h4, ivSha.h5, ivSha.h6, ivSha.h7]).all (fun (p, w) =>
      let m := Nat.sqrt p * 2 ^ 32 + w.toNat
      m ^ 2 ≤ p * 2 ^ 64 && p * 2 ^ 64 < (m + 1) ^ 2) = true := by decide +kernel

/-- R101: a round constant is the first 32 bits of the fractional part of a prime's cube root. -/
theorem test_k_cube_roots :
    primes.length = 64 ∧ (List.zip primes kRom.toList).all (fun (p, w) =>
      (List.range 7).any fun a =>
        let m := a * 2 ^ 32 + w.toNat
        m ^ 3 ≤ p * 2 ^ 96 && p * 2 ^ 96 < (m + 1) ^ 3) = true := by decide +kernel

/-- V4.2's spot values of T. -/
theorem test_t_spots :
    tRom[0] = 0xd76aa478 ∧ tRom[10] = 0xffff5bb1 ∧ tRom[16] = 0xf61e2562 ∧ tRom[17] = 0xc040b340 ∧
    tRom[32] = 0xfffa3942 ∧ tRom[35] = 0xfde5380c ∧ tRom[48] = 0xf4292244 ∧ tRom[63] = 0xeb86d391 := by decide

/-- The sum of the next terms of the sine series of `x`, scaled by 2^320; `term` is term number `k`. -/
def sineSum (x : Nat) : (terms : Nat) → (k : Nat) → (term : Int) → Int
  | 0, _, _ => 0
  | n + 1, k, term => term + sineSum x n (k + 1) (-(term * (x * x : Nat)) / ((2 * k + 2) * (2 * k + 3) : Nat))

/-- R152's generator, T[i] = floor(|sin(i + 1)| * 2^32), with the sine summed from its series to far more than 32 bits. -/
theorem test_t_generator :
    (List.finRange 64).all (fun i =>
      (sineSum (i.val + 1) 150 0 ((i.val + 1 : Nat) * 2 ^ 320)).natAbs / 2 ^ 288 == tRom[i].toNat) = true := by decide +kernel

/-- SH and MIDX against the formulas of R153 and R158. -/
theorem test_md5_schedules :
    ∀ i : Fin 64, shRom[i].val = shiftFormula i.val ∧ midxRom[i] = midxFormula i.val := by decide

/-! ## The datapaths (V3.1, V3.3, V3.5, V4.1, V4.6, V3.4, V4.5) -/

/-- V3.3's row with three unlike arguments. -/
theorem test_sha_functions :
    ch 0x80000001 0x12345678 0x9abcdef0 = 0x1abcdef0 ∧ maj 0x80000001 0x12345678 0x9abcdef0 = 0x92345670 ∧
    bigSigma0 0x80000001 = 0x600c0600 ∧ bigSigma1 0x80000001 = 0x063000c0 ∧
    smallSigma0 0x80000001 = 0x13006000 ∧ smallSigma1 0x80000001 = 0x0020f000 := by decide

/-- V4.1's row with three unlike arguments. -/
theorem test_md5_functions :
    bandF 0x80000001 0x12345678 0x9abcdef0 = 0x1abcdef0 ∧ bandG 0x80000001 0x12345678 0x9abcdef0 = 0x80000008 ∧
    bandH 0x80000001 0x12345678 0x9abcdef0 = 0x08888889 ∧ bandI 0x80000001 0x12345678 0x9abcdef0 = 0xf7777777 := by
  decide

/-- V3.1 at the ends of both ranges of ScheduleRecurrence. -/
theorem test_schedule_abc :
    (blocks (padSha abc 3)).map (fun blk => ((schedule blk)[0], (schedule blk)[15], (schedule blk)[16], (schedule blk)[63])) =
      [(0x61626380, 0x00000018, 0x61626380, 0x12b1edeb)] := by decide +kernel

/-- V3.5. -/
theorem test_sha256_compress :
    (blocks (as 64)).foldl sha256Compress ivSha =
      ⟨0xdf5bb81c, 0xe81e0626, 0xfb45a894, 0x4fd40f31, 0xb25e6816, 0xd6d499c1, 0xab904929, 0x00635e66⟩ := by decide +kernel

/-- V4.6. -/
theorem test_md5_compress :
    (blocks (as 64)).foldl md5Compress ivMd5 = ⟨0x89d4ff56, 0x125cd962, 0x69cade33, 0x0033e325⟩ := by decide +kernel

/-- V3.4 and V4.5: one block of padding, and two at 56 bytes. -/
theorem test_padding :
    padSha abc 3 = abc ++ [0x80] ++ List.replicate 52 0 ++ [0, 0, 0, 0, 0, 0, 0, 0x18] ∧
    padMd5 abc 3 = abc ++ [0x80] ++ List.replicate 52 0 ++ [0x18, 0, 0, 0, 0, 0, 0, 0] ∧
    padSha (as 56) 56 = as 56 ++ [0x80] ++ List.replicate 63 0 ++ [0, 0, 0, 0, 0, 0, 0x01, 0xc0] ∧
    padMd5 (as 56) 56 = as 56 ++ [0x80] ++ List.replicate 63 0 ++ [0xc0, 0x01, 0, 0, 0, 0, 0, 0] := by decide +kernel

/-! ## One step of each instruction -/

/-- R206, D8: INIT of a valid slot replaces its context. -/
theorem test_sha256Init :
    after (exec (.sha256Init 0) held) = some { four (some ⟨ivSha, [], 0⟩) (some ⟨ivMd5, abc, 3⟩) with rsp := some ⟨0, []⟩ } := by
  decide +kernel

/-- R207 at the last slot of four, and V7's shape one above it. -/
theorem test_md5Init : answerOf (.md5Init 3) blank = some ⟨0x00, []⟩ ∧ answerOf (.md5Init 4) blank = some ⟨0x03, []⟩ := by
  decide +kernel

/-- V6.7: the counter wraps, one compression, an empty buffer. -/
theorem test_sha256Update :
    (after (exec (.sha256Update 0 [0x78]) (four (some ⟨ivSha, as 63, 0xffffffffffffffff⟩) none))).map State.ctxSha =
      some [some ⟨⟨0x703af1b6, 0xb7443cec, 0x0a5abe4c, 0xa6651247, 0xfe0c2545, 0xa35a4695, 0xc23aed2a, 0x06ff83df⟩, [], 0⟩,
        none, none, none] := by decide +kernel

/-- V6.7 for MD5. -/
theorem test_md5Update :
    (after (exec (.md5Update 0 [0x78]) (four none (some ⟨ivMd5, as 63, 0xffffffffffffffff⟩)))).map State.ctxMd5 =
      some [some ⟨⟨0xec929fa8, 0xcc16a74a, 0x61d86e7f, 0xa323b18c⟩, [], 0⟩, none, none, none] := by decide +kernel

/-- V1.2. -/
theorem test_sha256Digest_abc :
    answerOf (.sha256Digest 0) held =
      some ⟨0, bytesOf 32 0xba7816bf8f01cfea414140de5dae2223b00361a396177a9cb410ff61f20015ad⟩ := by decide +kernel

/-- V6.6: with 2^61 bytes counted, the length field is 0 and the digest is the empty message's. -/
theorem test_sha256Digest_long :
    answerOf (.sha256Digest 0) (four (some ⟨ivSha, [], 0x2000000000000000⟩) none) =
      some ⟨0, bytesOf 32 0xe3b0c44298fc1c149afbf4c8996fb92427ae41e4649b934ca495991b7852b855⟩ := by decide +kernel

/-- V1.3. -/
theorem test_md5Digest_empty :
    answerOf (.md5Digest 0) (four none (some ⟨ivMd5, [], 0⟩)) = some ⟨0, bytesOf 16 0xd41d8cd98f00b204e9800998ecf8427e⟩ := by
  decide +kernel

/-- V6.2 at 56 bytes: two padding blocks. -/
theorem test_md5Digest_56 :
    answerOf (.md5Digest 0) (four none (some ⟨ivMd5, as 56, 56⟩)) = some ⟨0, bytesOf 16 0x3b0c8ac703f828b04c6c197006d17218⟩ := by
  decide +kernel

/-- V6.2 at 56 bytes, as characters: "b35439a4ac6f0948b6d6f9e3c6af0f5f590ce20f1bde7090ef7970686ec6738a". -/
theorem test_sha256Hexdigest_56 :
    answerOf (.sha256Hexdigest 0) (four (some ⟨ivSha, as 56, 56⟩) none) =
      some ⟨0, bytesOf 64 0x62333534333961346163366630393438623664366639653363366166306635663539306365323066316264653730393065663739373036383665633637333861⟩ := by
  decide +kernel

/-- V1.4, as characters: "900150983cd24fb0d6963f7d28e17f72". -/
theorem test_md5Hexdigest_abc :
    answerOf (.md5Hexdigest 0) held =
      some ⟨0, bytesOf 32 0x3930303135303938336364323466623064363936336637643238653137663732⟩ := by decide +kernel

/-- R214: a COPY to an invalid slot makes it valid with the source's context. -/
theorem test_sha256Copy :
    (after (exec (.sha256Copy 2 0) held)).map State.ctxSha =
      some [some ⟨ivSha, abc, 3⟩, none, some ⟨ivSha, abc, 3⟩, none] := by decide +kernel

/-- R215: the source is SRC; copying an invalid source fails and leaves the destination. -/
theorem test_md5Copy :
    (after (exec (.md5Copy 0 1) held)) = some { held with rsp := some ⟨0x04, []⟩ } := by decide +kernel

/-- Section 7's table of errors. -/
theorem test_errors :
    statusOf 0x00000003 [] blank = some 0x04 ∧ statusOf 0x00000002 [] blank = some 0x04 ∧
    statusOf 0x00000114 [] blank = some 0x04 ∧ statusOf 0x00000401 [] blank = some 0x03 ∧
    statusOf 0x00040005 [] blank = some 0x03 ∧ statusOf 0x00000415 [] blank = some 0x03 ∧
    statusOf 0x00090905 [0x7a] blank = some 0x02 ∧ statusOf 0x00090905 [] blank = some 0x03 ∧
    statusOf 0x00000013 [] (four (some ⟨ivSha, [], 0⟩) none) = some 0x04 := by decide +kernel

/-- R280: reset invalidates a valid slot. -/
theorem test_reset : after (step { held with inputs := [.reset] }) = some blank := by decide +kernel

/-! ## Witnesses: a concrete state and operands meeting all the hypotheses of each obligation that has some -/

theorem witness_EncodeOfDecode : decode ⟨0x00ff0005, []⟩ = .instr (.sha256Copy 0 255) := by decide

theorem witness_OpcodeMapExact :
    decode ⟨0x0000ff02, abc⟩ = .instr (.sha256Update 255 abc) ∧
      (Instr.sha256Copy 0 255).source = some 255 ∧ decode ⟨0x00ff0005, []⟩ = .instr (.sha256Copy 0 255) := by decide

/-- Commands at the port on both sides of IllegalCommandExactly: OP at 0, 1, 5, 6 and 15, and each other cause alone. -/
theorem witness_IllegalCommandExactly :
    [heldWith 0x0 [], heldWith 0x6 [], heldWith 0xf [], heldWith 0x21 [], heldWith 0x01000001 [], heldWith 0x00010001 [],
      heldWith 0x1 [0x78], heldWith 0x1 [], heldWith 0x00010005 [], heldWith 0x2 [0x78]].all
        (fun s => s.cmd.isSome && s.inputs.tail == []) = true ∧
    [statusOf 0x0 [] held, statusOf 0x6 [] held, statusOf 0xf [] held, statusOf 0x21 [] held, statusOf 0x01000001 [] held,
      statusOf 0x00010001 [] held, statusOf 0x1 [0x78] held] = List.replicate 7 (some 0x02) ∧
    [statusOf 0x1 [] held, statusOf 0x00000005 [] held, statusOf 0x2 [0x78] held] = List.replicate 3 (some 0x00) := by
  decide +kernel

theorem witness_StepRunsDecodedInstruction :
    (heldWith 0x2 abc).inputs = .command ⟨0x2, abc⟩ :: [] ∧ decode ⟨0x2, abc⟩ = .instr (.sha256Update 0 abc) := by decide

theorem witness_IdleStepHoldsState : held.inputs = [] := rfl

/-- ErrorPriority, one command for each clause: illegal, SLOT too big, SRC too big, slot read invalid, success. -/
theorem witness_ErrorPriority :
    (heldWith 0x00090905 [0x7a]).inputs = .command ⟨0x00090905, [0x7a]⟩ :: [] ∧
    (∃ why, decode ⟨0x00090905, [0x7a]⟩ = .illegalCommand why) ∧
    statusOf 0x00090905 [0x7a] held = some 0x02 ∧ statusOf 0x00000405 [] held = some 0x03 ∧
    statusOf 0x00040305 [] held = some 0x03 ∧ statusOf 0x00030305 [] held = some 0x04 ∧
    statusOf 0x00000305 [] held = some 0x00 := by
  refine ⟨rfl, ⟨.payloadNotEmpty, by decide⟩, ?_⟩
  decide +kernel

theorem witness_FailedCommandChangesNothing :
    ∃ t r, (heldWith 0x103 []).inputs = .command ⟨0x103, []⟩ :: [] ∧ step (heldWith 0x103 []) = .next t ∧
      t.rsp = some r ∧ r.status ≠ 0x00 :=
  ⟨{ held with rsp := some ⟨0x04, []⟩ }, ⟨0x04, []⟩, rfl, rfl, rfl, by decide⟩

theorem witness_StatusCodesProduced :
    ∃ t, (heldWith 0x1 []).inputs = .command ⟨0x1, []⟩ :: [] ∧ step (heldWith 0x1 []) = .next t := ⟨_, rfl, rfl⟩

theorem witness_ResetEventClearsEverySlot :
    ({ held with inputs := [.reset, .command ⟨0x1, []⟩] } : State).inputs = .reset :: [.command ⟨0x1, []⟩] := rfl

theorem witness_OnlyInitSucceedsBeforeInit :
    (∀ alg n, blank.valid alg n = false) ∧
      ∃ t r, exec (.md5Init 3) blank = .next t ∧ t.rsp = some r ∧ r.status = 0x00 := by
  refine ⟨?_, _, _, rfl, rfl, by decide⟩
  rintro (_ | _) (_ | _ | _ | _ | n) <;> rfl

/-- The slots of the completion statements at both ends: 0 and 3 exist; slot 0 is valid. -/
theorem witness_InitCompletes :
    0 < held.ctxSha.length ∧ 3 < held.ctxSha.length ∧ 0 < held.ctxMd5.length ∧ 3 < held.ctxMd5.length := by decide

theorem witness_UpdateCompletes :
    held.ctxSha[0]? = some (some ⟨ivSha, abc, 3⟩) ∧ held.ctxMd5[0]? = some (some ⟨ivMd5, abc, 3⟩) := by decide

theorem witness_DigestCompletes :
    held.ctxSha[0]? = some (some ⟨ivSha, abc, 3⟩) ∧ held.ctxMd5[0]? = some (some ⟨ivMd5, abc, 3⟩) := by decide

theorem witness_HexdigestCompletes :
    held.ctxSha[0]? = some (some ⟨ivSha, abc, 3⟩) ∧ held.ctxMd5[0]? = some (some ⟨ivMd5, abc, 3⟩) := by decide

theorem witness_CopyCompletes :
    (3 < held.ctxSha.length ∧ held.ctxSha[0]? = some (some ⟨ivSha, abc, 3⟩)) ∧
      3 < held.ctxMd5.length ∧ held.ctxMd5[0]? = some (some ⟨ivMd5, abc, 3⟩) := by decide

/-- BadSlotExactly on both sides of NSLOT, for SLOT and for SRC. -/
theorem witness_BadSlotExactly :
    (∃ t, exec (.sha256Init 3) held = .next t) ∧ (∃ t, exec (.sha256Init 4) held = .next t) ∧
      (∃ t, exec (.md5Copy 3 4) held = .next t) ∧ held.nslot .sha256 = 4 ∧ held.nslot .md5 = 4 :=
  ⟨⟨_, rfl⟩, ⟨_, rfl⟩, ⟨_, rfl⟩, rfl, rfl⟩

/-- NoContextExactly: slot 3 exists and is invalid, slot 0 is valid, slot 4 does not exist. -/
theorem witness_NoContextExactly :
    (∃ t, exec (.md5Digest 3) held = .next t ∧ t.rsp = some ⟨0x04, []⟩) ∧
      (∃ t, exec (.sha256Update 0 []) held = .next t ∧ t.rsp = some ⟨0x00, []⟩) ∧
      ∃ t, exec (.sha256Copy 0 4) held = .next t ∧ t.rsp = some ⟨0x03, []⟩ :=
  ⟨⟨_, rfl, rfl⟩, ⟨_, rfl, rfl⟩, ⟨_, rfl, rfl⟩⟩

/-- CommandFrame, for a command that writes slot 2 and another slot and the other file beside it. -/
theorem witness_CommandFrame :
    (∃ t, exec (.sha256Copy 2 0) held = .next t) ∧
      ¬ (Alg.sha256 = (Instr.sha256Copy 2 0).alg ∧ (Instr.sha256Copy 2 0).slotWritten = some 0) ∧
      ¬ (Alg.md5 = (Instr.sha256Copy 2 0).alg ∧ (Instr.sha256Copy 2 0).slotWritten = some 2) :=
  ⟨⟨_, rfl⟩, by decide, by decide⟩

theorem witness_DigestWritesNoState :
    (∃ t, exec (.sha256Digest 0) held = .next t) ∧ (∃ t, exec (.md5Digest 3) held = .next t) ∧
      (∃ t, exec (.sha256Hexdigest 4) held = .next t) ∧ ∃ t, exec (.md5Hexdigest 0) held = .next t :=
  ⟨⟨_, rfl⟩, ⟨_, rfl⟩, ⟨_, rfl⟩, ⟨_, rfl⟩⟩

/-- ValidBitWriters: slot 0 is valid before, and slot 3 becomes valid by an INIT and by a COPY. -/
theorem witness_ValidBitWriters :
    held.valid .sha256 0 = true ∧ held.valid .sha256 3 = false ∧
      (∃ t, exec (.sha256Init 3) held = .next t ∧ t.valid .sha256 3 = true) ∧
      ∃ t, exec (.sha256Copy 3 0) held = .next t ∧ t.valid .sha256 3 = true :=
  ⟨rfl, rfl, ⟨_, rfl, rfl⟩, ⟨_, rfl, rfl⟩⟩

theorem witness_SlotCountsNeverChange :
    (∃ t, step { held with inputs := [.reset] } = .next t) ∧ ∃ t, step (heldWith 0x1 []) = .next t :=
  ⟨⟨_, rfl⟩, ⟨_, rfl⟩⟩

theorem witness_ScheduleRecurrence : 0 < 16 ∧ 15 < 16 ∧ (16 ≤ 16 ∧ 16 < 64) ∧ 16 ≤ 63 ∧ 63 < 64 := by decide

/-- The working variables that Sha256CompressionRounds asks for exist: they follow from the first ones by recursion. -/
theorem witness_Sha256CompressionRounds :
    ∃ x : Nat → ShaWork, x 0 = shaLoad ivSha ∧ ∀ (t : Nat) (_ : t < 64),
      let blk : Block := Vector.replicate 64 0x61
      let t1 := (x t).h
        + ((x t).e.rotateRight 6 ^^^ (x t).e.rotateRight 11 ^^^ (x t).e.rotateRight 25)
        + (((x t).e &&& (x t).f) ^^^ (~~~(x t).e &&& (x t).g)) + kRom[t] + (schedule blk)[t]
      let t2 := ((x t).a.rotateRight 2 ^^^ (x t).a.rotateRight 13 ^^^ (x t).a.rotateRight 22)
        + (((x t).a &&& (x t).b) ^^^ ((x t).a &&& (x t).c) ^^^ ((x t).b &&& (x t).c))
      x (t + 1) = ⟨t1 + t2, (x t).a, (x t).b, (x t).c, (x t).d + t1, (x t).e, (x t).f, (x t).g⟩ := by
  refine ⟨fun n => n.rec (shaLoad ivSha) fun t y => if h : t < 64 then
    (let blk : Block := Vector.replicate 64 0x61
     let t1 := y.h + (y.e.rotateRight 6 ^^^ y.e.rotateRight 11 ^^^ y.e.rotateRight 25)
       + ((y.e &&& y.f) ^^^ (~~~y.e &&& y.g)) + kRom[t] + (schedule blk)[t]
     let t2 := (y.a.rotateRight 2 ^^^ y.a.rotateRight 13 ^^^ y.a.rotateRight 22)
       + ((y.a &&& y.b) ^^^ (y.a &&& y.c) ^^^ (y.b &&& y.c))
     ⟨t1 + t2, y.a, y.b, y.c, y.d + t1, y.e, y.f, y.g⟩) else y, rfl, ?_⟩
  intro t h
  exact dif_pos h

/-- The same for Md5CompressionRounds. -/
theorem witness_Md5CompressionRounds :
    ∃ x : Nat → Md5Work, x 0 = md5Load ivMd5 ∧ ∀ (i : Nat) (_ : i < 64),
      let blk : Block := Vector.replicate 64 0x61
      let f := if i < 16 then ((x i).b &&& (x i).c) ||| (~~~(x i).b &&& (x i).d)
        else if i < 32 then ((x i).b &&& (x i).d) ||| ((x i).c &&& ~~~(x i).d)
        else if i < 48 then (x i).b ^^^ (x i).c ^^^ (x i).d
        else (x i).c ^^^ ((x i).b ||| ~~~(x i).d)
      let j := midxFormula i
      let word : BitVec 32 := blk[4 * j.val + 3] ++ blk[4 * j.val + 2] ++ blk[4 * j.val + 1] ++ blk[4 * j.val]
      x (i + 1) = ⟨(x i).d, (x i).b + ((x i).a + f + tRom[i] + word).rotateLeft (shiftFormula i), (x i).b, (x i).c⟩ := by
  refine ⟨fun n => n.rec (md5Load ivMd5) fun i y => if h : i < 64 then
    (let blk : Block := Vector.replicate 64 0x61
     let f := if i < 16 then (y.b &&& y.c) ||| (~~~y.b &&& y.d)
       else if i < 32 then (y.b &&& y.d) ||| (y.c &&& ~~~y.d)
       else if i < 48 then y.b ^^^ y.c ^^^ y.d
       else y.c ^^^ (y.b ||| ~~~y.d)
     let j := midxFormula i
     let word : BitVec 32 := blk[4 * j.val + 3] ++ blk[4 * j.val + 2] ++ blk[4 * j.val + 1] ++ blk[4 * j.val]
     ⟨y.d, y.b + (y.a + f + tRom[i] + word).rotateLeft (shiftFormula i), y.b, y.c⟩) else y, rfl, ?_⟩
  intro i h
  exact dif_pos h

/-- RotationsRotate at both ends of the amounts and of the bits. -/
theorem witness_RotationsRotate : (0 < 1 ∧ 1 < 32) ∧ (0 < 31 ∧ 31 < 32) ∧ 0 < 32 ∧
    (rotr 1 1).getLsbD 31 = true ∧ (rotl 1 31).getLsbD 31 = true := by decide

/-- PaddedTails at 0, 55, 56 and 63 bytes. -/
theorem witness_PaddedTails :
    (as 0).length < 64 ∧ (as 55).length = 55 ∧ (as 56).length = 56 ∧ (as 63).length < 64 ∧
    (padSha (as 55) 55).length = 64 ∧ (padMd5 (as 56) 56).length = 128 := by decide +kernel

theorem witness_HexFormat :
    ([0x09, 0xa0] : List Byte)[0]? = some 0x09 ∧ ([0x09, 0xa0] : List Byte)[1]? = some 0xa0 := by decide

/-- DigestByteOrder at the first and last word and byte of each algorithm. -/
theorem witness_DigestByteOrder :
    [ivSha.h0, ivSha.h1, ivSha.h2, ivSha.h3, ivSha.h4, ivSha.h5, ivSha.h6, ivSha.h7][7]? = some ivSha.h7 ∧
    (sha256Out ivSha)[31]? = some 0x19 ∧ [ivMd5.v0, ivMd5.v1, ivMd5.v2, ivMd5.v3][3]? = some ivMd5.v3 ∧
    (md5Out ivMd5)[15]? = some 0x10 ∧ 3 < 4 := by decide

theorem witness_ResponseLengths :
    (∃ t, exec (.sha256Hexdigest 0) held = .next t) ∧ ∃ t, exec (.sha256Hexdigest 1) held = .next t := ⟨⟨_, rfl⟩, ⟨_, rfl⟩⟩

theorem witness_HexdigestIsHexOfDigest :
    (∃ t u, exec (.sha256Digest 0) held = .next t ∧ exec (.sha256Hexdigest 0) held = .next u) ∧
      ∃ t u, exec (.md5Digest 0) held = .next t ∧ exec (.md5Hexdigest 0) held = .next u :=
  ⟨⟨_, _, rfl, rfl⟩, ⟨_, _, rfl, rfl⟩⟩

theorem witness_ChunkingTransparency :
    (∃ t, exec (.sha256Update 0 (as 70)) held = .next t) ∧ ∃ t, exec (.md5Update 0 []) held = .next t :=
  ⟨⟨_, rfl⟩, ⟨_, rfl⟩⟩

/-- EmptyUpdateChangesNothing: valid, invalid and absent slots of a state whose buffers are short. -/
theorem witness_EmptyUpdateChangesNothing :
    (∀ c : Ctx ShaVec, held.ctxSha[0]? = some (some c) → c.buf.length < 64) ∧
    (∀ c : Ctx ShaVec, held.ctxSha[3]? = some (some c) → c.buf.length < 64) ∧
    ∀ c : Ctx Md5Vec, held.ctxMd5[4]? = some (some c) → c.buf.length < 64 := by
  refine ⟨?_, ?_, ?_⟩ <;> rintro c ⟨⟩
  decide

/-- UpdateCountsBytes below a block, at a block and above it. -/
theorem witness_UpdateCountsBytes :
    (held.ctxSha[0]? = some (some ⟨ivSha, abc, 3⟩) ∧ ∃ t, exec (.sha256Update 0 (as 60)) held = .next t) ∧
    (3 + (as 60).length < 64) ∧ ¬ (3 + (as 61).length < 64) ∧
    held.ctxMd5[0]? = some (some ⟨ivMd5, abc, 3⟩) ∧ ∃ t, exec (.md5Update 0 (as 61)) held = .next t :=
  ⟨⟨rfl, _, rfl⟩, by decide, by decide, rfl, _, rfl⟩

theorem witness_IdempotentFinalization :
    (∃ t, exec (.sha256Digest 0) held = .next t) ∧ (∃ t, exec (.md5Digest 0) held = .next t) ∧
      (∃ t, exec (.sha256Hexdigest 3) held = .next t) ∧ ∃ t, exec (.md5Hexdigest 4) held = .next t :=
  ⟨⟨_, rfl⟩, ⟨_, rfl⟩, ⟨_, rfl⟩, ⟨_, rfl⟩⟩

theorem witness_CopyOntoItself :
    (∃ t, exec (.sha256Copy 0 0) held = .next t ∧ t.rsp = some ⟨0x00, []⟩) ∧
      ∃ t, exec (.md5Copy 3 3) held = .next t ∧ t.rsp = some ⟨0x04, []⟩ := ⟨⟨_, rfl, rfl⟩, ⟨_, rfl, rfl⟩⟩

/-- CopyIndependence, with later commands on the copy and on the original. -/
theorem witness_CopyIndependence :
    (3 ≠ 0 ∧ held.ctxSha[0]? = some (some ⟨ivSha, abc, 3⟩) ∧ 3 < held.ctxSha.length ∧
      ∃ t u, exec (.sha256Copy 3 0) held = .next t ∧ execAll [.sha256Update 3 abc, .sha256Digest 3] t = some u ∧
        ∀ j ∈ [Instr.sha256Update 3 abc, .sha256Digest 3], j.alg = .sha256 ∧ j.slot = 3) ∧
    3 ≠ 0 ∧ held.ctxMd5[0]? = some (some ⟨ivMd5, abc, 3⟩) ∧ 3 < held.ctxMd5.length ∧
      ∃ t u, exec (.md5Copy 3 0) held = .next t ∧ execAll [.md5Init 0] t = some u ∧
        ∀ j ∈ [Instr.md5Init 0], j.alg = .md5 ∧ j.slot = 0 :=
  ⟨⟨by decide, rfl, by decide, _, _, rfl, rfl, by decide⟩, by decide, rfl, by decide, _, _, rfl, rfl, by decide⟩

/-- The stream of slot 0 of `held` is "abc". -/
def heldStreams : Alg → Nat → List Byte := fun _ _ => abc

theorem witness_StreamsFollowCommands :
    Tracks held heldStreams ∧
      (∃ t, exec (.sha256Copy 3 0) held = .next t ∧ t.rsp = some ⟨0x00, []⟩) ∧
      ∃ t, exec (.md5Update 3 abc) held = .next t ∧ t.rsp = some ⟨0x04, []⟩ := by
  refine ⟨⟨?_, ?_⟩, ⟨_, rfl, rfl⟩, ⟨_, rfl, rfl⟩⟩
  all_goals
    rintro (_ | _ | _ | _ | n) c ⟨⟩
    exact ⟨rfl, rfl, rfl⟩

theorem witness_DigestOfStream :
    (held.ctxSha[0]? = some (some ⟨ivSha, abc, 3⟩) ∧ HoldsStream ivSha sha256Compress ⟨ivSha, abc, 3⟩ abc) ∧
      held.ctxMd5[0]? = some (some ⟨ivMd5, abc, 3⟩) ∧ HoldsStream ivMd5 md5Compress ⟨ivMd5, abc, 3⟩ abc :=
  ⟨⟨rfl, rfl, rfl, rfl⟩, rfl, rfl, rfl, rfl⟩

theorem witness_HexofIsOneShotDigest : 3 < blank.ctxSha.length ∧ 3 < blank.ctxMd5.length := by decide

theorem witness_AlgorithmsShareNoState :
    (∃ t, exec (.sha256Copy 3 0) held = .next t) ∧ (Instr.sha256Copy 3 0).alg = .sha256 ∧
      (∃ t, exec (.md5Update 0 abc) held = .next t) ∧ (Instr.md5Update 0 abc).alg = .md5 :=
  ⟨⟨_, rfl⟩, rfl, ⟨_, rfl⟩, rfl⟩

/-- CommandSeesOnlyItsSlot: two states that agree on MD5 slot 0 and differ in SHA-256 slot 0. -/
theorem witness_CommandSeesOnlyItsSlot :
    (∀ alg, held.nslot alg = (four none (some ⟨ivMd5, abc, 3⟩)).nslot alg) ∧
      (∀ n, (Instr.md5Copy 3 0).slotRead = some n →
        SameSlot (Instr.md5Copy 3 0).alg n held (four none (some ⟨ivMd5, abc, 3⟩))) ∧
      (∃ t, exec (.md5Copy 3 0) held = .next t ∧ t.rsp = some ⟨0x00, []⟩) ∧
      (∃ t, exec (.md5Copy 3 0) (four none (some ⟨ivMd5, abc, 3⟩)) = .next t) ∧
      (Instr.md5Copy 3 0).slotWritten = some 3 := by
  refine ⟨?_, ?_, ⟨_, rfl, rfl⟩, ⟨_, rfl⟩, rfl⟩
  · rintro (_ | _) <;> rfl
  · rintro n ⟨⟩; rfl

/-- CommandsToDifferentSlotsCommute, within one file: two COPYs from one source, and commands with no slot in common. -/
theorem witness_CommandsToDifferentSlotsCommute :
    (((∀ n, (Instr.sha256Copy 3 0).slotWritten = some n → n ∉ (Instr.sha256Copy 2 0).slots) ∧
        ∀ n, (Instr.sha256Copy 2 0).slotWritten = some n → n ∉ (Instr.sha256Copy 3 0).slots) ∧
      ∃ ti tij tj tji, exec (.sha256Copy 3 0) held = .next ti ∧ exec (.sha256Copy 2 0) ti = .next tij ∧
        exec (.sha256Copy 2 0) held = .next tj ∧ exec (.sha256Copy 3 0) tj = .next tji) ∧
    ((∀ n, (Instr.md5Update 0 abc).slotWritten = some n → n ∉ (Instr.md5Init 2).slots) ∧
        ∀ n, (Instr.md5Init 2).slotWritten = some n → n ∉ (Instr.md5Update 0 abc).slots) ∧
      ∃ ti tij tj tji, exec (.md5Update 0 abc) held = .next ti ∧ exec (.md5Init 2) ti = .next tij ∧
        exec (.md5Init 2) held = .next tj ∧ exec (.md5Update 0 abc) tj = .next tji := by
  refine ⟨⟨⟨?_, ?_⟩, _, _, _, _, rfl, rfl, rfl, rfl⟩, ⟨?_, ?_⟩, _, _, _, _, rfl, rfl, rfl, rfl⟩ <;> rintro n ⟨⟩ <;> decide

theorem witness_InvariantKept : (heldWith 0x2 abc).Inv ∧ ∃ t, step (heldWith 0x2 abc) = .next t := by
  refine ⟨⟨by decide, by decide, ?_⟩, _, rfl⟩
  rintro r ⟨⟩

end Sys2Proof.Tests
end

/-! PROOFS of 00_scope: rotations (R10), byte packing (R11), and the invariant every step keeps (R8, R20, R26, R28, R94, R251). -/

namespace Sys2Proof.Machine

/-! ## Rotations (R10) -/

theorem rotr_eq_rotateRight (x : Word) {n : Nat} (h : n < 32) : rotr x n = x.rotateRight n := by
  rw [BitVec.rotateRight_def, Nat.mod_eq_of_lt h, rotr]

theorem rotl_eq_rotateLeft (x : Word) {n : Nat} (h : n < 32) : rotl x n = x.rotateLeft n := by
  rw [BitVec.rotateLeft_def, Nat.mod_eq_of_lt h, rotl]

/-- The bits that do not wrap come from n places up; the top n bits wrap round. -/
theorem rotr_getLsbD (x : Word) {n i : Nat} (hn : n < 32) (hi : i < 32) :
    (rotr x n).getLsbD i = x.getLsbD ((i + n) % 32) := by
  rw [rotr_eq_rotateRight x hn, BitVec.getLsbD_rotateRight, Nat.mod_eq_of_lt hn]
  by_cases hwrap : i < 32 - n
  · have hidx : (i + n) % 32 = n + i := by omega
    simp [hwrap, hidx]
  · have hidx : (i + n) % 32 = i - (32 - n) := by omega
    simp [hwrap, hidx, hi]

/-- The bits that do not wrap come from n places down; the low n bits wrap round. -/
theorem rotl_getLsbD (x : Word) {n i : Nat} (hn : n < 32) (hi : i < 32) :
    (rotl x n).getLsbD i = x.getLsbD ((i + 32 - n) % 32) := by
  rw [rotl_eq_rotateLeft x hn, BitVec.getLsbD_rotateLeft, Nat.mod_eq_of_lt hn]
  by_cases hwrap : i < n
  · have hidx : (i + 32 - n) % 32 = 32 - n + i := by omega
    simp [hwrap, hidx]
  · have hidx : (i + 32 - n) % 32 = i - n := by omega
    simp [hwrap, hidx, hi]

/-- Settles O35: the model's shift pairs are the library's rotations, whose bits wrap modulo 32. -/
theorem rotationsRotate : Obligations.RotationsRotate := by
  intro x n _ hn i hi
  exact ⟨rotr_getLsbD x hn hi, rotl_getLsbD x hn hi⟩

/-! ## Byte packing (R11) -/

/-- An append as arithmetic: the high part scaled by 2^n, plus the low part. -/
theorem toNat_append_eq_add {m n : Nat} (x : BitVec m) (y : BitVec n) :
    (x ++ y).toNat = x.toNat * 2 ^ n + y.toNat := by
  rw [BitVec.toNat_append, ← Nat.shiftLeft_add_eq_or_of_lt y.isLt, Nat.shiftLeft_eq]

theorem be32_toNat (b0 b1 b2 b3 : Byte) :
    (be32 b0 b1 b2 b3).toNat = b0.toNat * 2 ^ 24 + b1.toNat * 2 ^ 16 + b2.toNat * 2 ^ 8 + b3.toNat := by
  simp only [be32, toNat_append_eq_add]
  omega

/-- LE32 is BE32 of the bytes in the other order. -/
theorem le32_eq_be32 (b0 b1 b2 b3 : Byte) : le32 b0 b1 b2 b3 = be32 b3 b2 b1 b0 := rfl

theorem bytesLE32_eq_reverse (w : Word) : bytesLE32 w = (bytesBE32 w).reverse := rfl

theorem bytesBE32_be32 (b0 b1 b2 b3 : Byte) : bytesBE32 (be32 b0 b1 b2 b3) = [b0, b1, b2, b3] := by
  have hval := be32_toNat b0 b1 b2 b3
  simp only [bytesBE32, List.cons.injEq, and_true, BitVec.toNat_eq, BitVec.extractLsb'_toNat,
    Nat.shiftRight_eq_div_pow, hval]
  omega

theorem bytesLE32_le32 (b0 b1 b2 b3 : Byte) : bytesLE32 (le32 b0 b1 b2 b3) = [b0, b1, b2, b3] := by
  rw [le32_eq_be32, bytesLE32_eq_reverse, bytesBE32_be32]
  rfl

/-- Byte k of a 64-bit value is its base-256 digit k. -/
theorem extractByte_eq_digit (n : Count) (k : Nat) :
    n.extractLsb' (8 * k) 8 = BitVec.ofNat 8 (n.toNat / 256 ^ k) := by
  rw [BitVec.extractLsb', Nat.shiftRight_eq_div_pow, Nat.pow_mul]

theorem bytesLE64_eq_digits (n : Count) :
    bytesLE64 n = (List.range 8).map fun k => BitVec.ofNat 8 (n.toNat / 256 ^ k) := by
  simp only [← extractByte_eq_digit]
  rfl

theorem bytesBE64_eq_digits (n : Count) :
    bytesBE64 n = (List.range 8).map fun k => BitVec.ofNat 8 (n.toNat / 256 ^ (7 - k)) := by
  simp only [← extractByte_eq_digit]
  rfl

/-- Settles O37: packing by the value of an append, LE32 by reversing BE32, the 64-bit fields digit by digit. -/
theorem bytePackingInverse : Obligations.BytePackingInverse := by
  refine ⟨fun b0 b1 b2 b3 => ⟨be32_toNat b0 b1 b2 b3, ?_, bytesBE32_be32 b0 b1 b2 b3, bytesLE32_le32 b0 b1 b2 b3⟩,
    fun n => ⟨bytesBE64_eq_digits n, bytesLE64_eq_digits n⟩⟩
  rw [le32_eq_be32, be32_toNat]

/-! ## What one step does (R200, R267, R280) -/

/-- With nothing presented, the step holds the state (R267). -/
theorem step_of_nil {s : State} (h : s.inputs = []) : step s = .next s := by
  rw [step, takeInput_nil h]

theorem step_of_reset {s : State} {rest : List PortInput} (h : s.inputs = .reset :: rest) :
    step s = .next (State.performReset { s with inputs := rest }) := by
  rw [step, takeInput_cons h]

theorem step_of_illegal {s : State} {c : Command} {rest : List PortInput} {why : IllegalCause}
    (h : s.inputs = .command c :: rest) (hd : decode c = .illegalCommand why) :
    step s = .next (State.fail { s with inputs := rest } .illegalCommand) := by
  simp only [step, takeInput_cons h, hd]

theorem step_of_instr {s : State} {c : Command} {rest : List PortInput} {i : Instr}
    (h : s.inputs = .command c :: rest) (hd : decode c = .instr i) :
    step s = exec i { s with inputs := rest } := by
  simp only [step, takeInput_cons h, hd]

/-- If a step answers a next state, it was idle, or performed a reset, or failed to decode a command, or ran its instruction. -/
theorem step_inversion {s t : State} (h : step s = .next t) :
    (s.inputs = [] ∧ t = s) ∨
      ∃ rest, (s.inputs = .reset :: rest ∧ t = State.performReset { s with inputs := rest }) ∨
        ∃ c, s.inputs = .command c :: rest ∧
          ((∃ why, decode c = .illegalCommand why ∧ t = State.fail { s with inputs := rest } .illegalCommand) ∨
            ∃ i, decode c = .instr i ∧ exec i { s with inputs := rest } = .next t) := by
  match hin : s.inputs with
  | [] =>
    rw [step_of_nil hin] at h
    exact .inl ⟨rfl, by cases h; rfl⟩
  | .reset :: rest =>
    rw [step_of_reset hin] at h
    exact .inr ⟨rest, .inl ⟨rfl, by cases h; rfl⟩⟩
  | .command c :: rest =>
    refine .inr ⟨rest, .inr ⟨c, rfl, ?_⟩⟩
    match hd : decode c with
    | .illegalCommand why =>
      rw [step_of_illegal hin hd] at h
      exact .inl ⟨why, rfl, by cases h; rfl⟩
    | .instr i => exact .inr ⟨i, rfl, step_of_instr hin hd ▸ h⟩

/-! ## Lengths of digests (R94) -/

@[simp] theorem finalizeSha_length (c : Ctx ShaVec) : (finalizeSha c).length = 32 := rfl

@[simp] theorem finalizeMd5_length (c : Ctx Md5Vec) : (finalizeMd5 c).length = 16 := rfl

@[simp] theorem hex_length (bs : List Byte) : (hex bs).length = 2 * bs.length := by
  simp [hex, List.length_flatMap, Nat.mul_comm]

/-! ## Contexts and slot files between commands (R8, R26, R28) -/

section
variable {SV : Type}

theorem ctxOk_iff {c : Ctx SV} : ctxOk c = true ↔ c.buf.length < 64 ∧ c.buf.length = c.cnt.toNat % 64 := by
  simp [ctxOk]

theorem ctxOk_freshCtx (iv : SV) : ctxOk (freshCtx iv) = true := by
  simp [ctxOk_iff, freshCtx]

/-- ABSORB keeps BLEN = CNT mod 64: both grow by the payload's length, and 64 divides the 2^64 at which CNT wraps (R28). -/
theorem ctxOk_absorb {compress : SV → Block → SV} {c : Ctx SV} (h : ctxOk c = true) (data : List Byte) :
    ctxOk (absorb compress c data) = true := by
  obtain ⟨-, hcnt⟩ := ctxOk_iff.mp h
  have hbuf : (absorb compress c data).buf.length = (c.buf.length + data.length) % 64 := by
    rw [absorb, leftover_length, List.length_append]
  have hcnt' : (absorb compress c data).cnt.toNat = (c.cnt.toNat + data.length) % 2 ^ 64 := by
    simp [absorb, BitVec.toNat_add]
  rw [ctxOk_iff, hbuf, hcnt']
  omega

theorem fileOk_iff {file : SlotFile SV} :
    fileOk file = true ↔ 1 ≤ file.length ∧ file.length ≤ 256 ∧ ∀ c, some c ∈ file → ctxOk c = true := by
  simp only [fileOk, Bool.and_eq_true, decide_eq_true_eq, List.all_eq_true, and_assoc]
  refine and_congr_right fun _ => and_congr_right fun _ => ⟨fun h c hc => h (some c) hc, fun h x hx => ?_⟩
  cases x with
  | none => rfl
  | some c => exact h c hx

theorem ctxOk_of_fileOk {file : SlotFile SV} {n : Nat} {c : Ctx SV} (h : fileOk file = true)
    (hc : file[n]? = some (some c)) : ctxOk c = true := by
  obtain ⟨-, -, hall⟩ := fileOk_iff.mp h
  exact hall c (List.mem_of_getElem? hc)

/-- Writing a well-formed context to a slot keeps the file well formed, its length with it (R20). -/
theorem fileOk_set {file : SlotFile SV} {c : Ctx SV} (h : fileOk file = true) (n : Nat) (hc : ctxOk c = true) :
    fileOk (file.set n (some c)) = true := by
  obtain ⟨hlo, hhi, hall⟩ := fileOk_iff.mp h
  refine fileOk_iff.mpr ⟨by simpa using hlo, by simpa using hhi, fun c' hc' => ?_⟩
  rcases List.mem_or_eq_of_mem_set hc' with hmem | heq
  · exact hall c' hmem
  · exact Option.some.inj heq ▸ hc

/-- A file of 1 to 256 invalid slots is well formed. -/
theorem fileOk_replicate_none {k : Nat} (hlo : 1 ≤ k) (hhi : k ≤ 256) :
    fileOk (List.replicate k (none : Option (Ctx SV))) = true := by
  refine fileOk_iff.mpr ⟨by simpa using hlo, by simpa using hhi, fun c hc => ?_⟩
  cases List.eq_of_mem_replicate hc

theorem fileOk_cleared {file : SlotFile SV} (h : fileOk file = true) :
    fileOk (List.replicate file.length (none : Option (Ctx SV))) = true := by
  obtain ⟨hlo, hhi, -⟩ := fileOk_iff.mp h
  exact fileOk_replicate_none hlo hhi

end

/-! ## The invariant (R20, R26, R28, R29, R94) -/

/-- A success answers 0, 16, 32 or 64 bytes (R94). -/
theorem responseOk_success {d : List Byte} (h : d.length ∈ [0, 16, 32, 64]) : responseOk ⟨0x00, d⟩ = true := by
  rw [responseOk, if_pos rfl]
  exact List.contains_iff_mem.mpr h

/-- A failure of a command answers one of the three codes the block produces and no data (R251, R258). -/
theorem responseOk_failure {e : Status} (h : e ∈ [Status.illegalCommand, .badSlot, .noContext]) :
    responseOk ⟨e.byte, []⟩ = true := by
  revert e
  decide

/-- The error of a failing instruction is BAD_SLOT or NO_CONTEXT. -/
theorem FailsWith.status_mem {s : State} {i : Instr} {e : Status} (h : FailsWith s i e) :
    e ∈ [Status.illegalCommand, .badSlot, .noContext] := by
  rcases h with ⟨rfl, -⟩ | ⟨rfl, -⟩ <;> decide

namespace State.Inv

variable {s : State} (h : s.Inv)
include h

/-- The invariant does not speak of the commands still to come. -/
theorem withInputs (rest : List PortInput) : State.Inv { s with inputs := rest } := h

theorem withResponse {r : Response} (hr : responseOk r = true) : State.Inv { s with rsp := some r } := by
  obtain ⟨hsha, hmd5, -⟩ := h
  exact ⟨hsha, hmd5, fun _ hr' => Option.some.inj hr' ▸ hr⟩

theorem setSha (n : Nat) {c : Ctx ShaVec} (hc : ctxOk c = true) :
    State.Inv { s with ctxSha := s.ctxSha.set n (some c) } := by
  obtain ⟨hsha, hmd5, hrsp⟩ := h
  exact ⟨fileOk_set hsha n hc, hmd5, hrsp⟩

theorem setMd5 (n : Nat) {c : Ctx Md5Vec} (hc : ctxOk c = true) :
    State.Inv { s with ctxMd5 := s.ctxMd5.set n (some c) } := by
  obtain ⟨hsha, hmd5, hrsp⟩ := h
  exact ⟨hsha, fileOk_set hmd5 n hc, hrsp⟩

theorem shaCtx {n : Nat} {c : Ctx ShaVec} (hc : s.ctxSha[n]? = some (some c)) : ctxOk c = true := by
  obtain ⟨hsha, -, -⟩ := h
  exact ctxOk_of_fileOk hsha hc

theorem md5Ctx {n : Nat} {c : Ctx Md5Vec} (hc : s.ctxMd5[n]? = some (some c)) : ctxOk c = true := by
  obtain ⟨-, hmd5, -⟩ := h
  exact ctxOk_of_fileOk hmd5 hc

theorem fail {e : Status} (he : e ∈ [Status.illegalCommand, .badSlot, .noContext]) : (s.fail e).Inv :=
  h.withResponse (responseOk_failure he)

theorem performReset : s.performReset.Inv := by
  obtain ⟨hsha, hmd5, -⟩ := h
  exact ⟨fileOk_cleared hsha, fileOk_cleared hmd5, nofun⟩

/-- The effect of every instruction that succeeds keeps the invariant. -/
theorem of_succeeds {t : State} {i : Instr} (hs : Succeeds s t i) : t.Inv := by
  have hempty : responseOk ⟨0x00, []⟩ = true := responseOk_success (by decide)
  cases i with
  | sha256Init n =>
    obtain ⟨-, rfl⟩ := hs
    exact (h.setSha n (ctxOk_freshCtx ivSha)).withResponse hempty
  | md5Init n =>
    obtain ⟨-, rfl⟩ := hs
    exact (h.setMd5 n (ctxOk_freshCtx ivMd5)).withResponse hempty
  | sha256Update n data =>
    obtain ⟨c, hc, rfl⟩ := hs
    exact (h.setSha n (ctxOk_absorb (h.shaCtx hc) data)).withResponse hempty
  | md5Update n data =>
    obtain ⟨c, hc, rfl⟩ := hs
    exact (h.setMd5 n (ctxOk_absorb (h.md5Ctx hc) data)).withResponse hempty
  | sha256Copy d r =>
    obtain ⟨-, c, hc, rfl⟩ := hs
    exact (h.setSha d (h.shaCtx hc)).withResponse hempty
  | md5Copy d r =>
    obtain ⟨-, c, hc, rfl⟩ := hs
    exact (h.setMd5 d (h.md5Ctx hc)).withResponse hempty
  | sha256Digest n | md5Digest n | sha256Hexdigest n | md5Hexdigest n =>
    obtain ⟨c, -, rfl⟩ := hs
    exact h.withResponse (responseOk_success (by simp))

theorem of_exec {t : State} {i : Instr} (ht : exec i s = .next t) : t.Inv := by
  rcases exec_inversion ht with hs | ⟨e, he, rfl⟩
  · exact h.of_succeeds hs
  · exact h.fail he.status_mem

theorem of_step {t : State} (ht : step s = .next t) : t.Inv := by
  obtain ⟨-, rfl⟩ | ⟨rest, ⟨-, rfl⟩ | ⟨c, -, ⟨why, -, rfl⟩ | ⟨i, -, hexec⟩⟩⟩ := step_inversion ht
  · exact h
  · exact (h.withInputs rest).performReset
  · exact (h.withInputs rest).fail (by decide)
  · exact (h.withInputs rest).of_exec hexec

end State.Inv

/-- Settles O59, by what a step can do: it is idle, resets, fails to decode, or runs an instruction that succeeds or fails. -/
theorem invariantKept : Obligations.InvariantKept :=
  fun _ _ hs ht => hs.of_step ht

end Sys2Proof.Machine

/-! PROOFS of 10_state: the reset state (R8, R32), the frame of a command and its VALID bits (R22, R25), slot counts (R20, R33),
what UPDATE does to CNT and BLEN (R27, R28), and what a command's outcome depends on (R22, R24, R83). -/

namespace Sys2Proof.Machine

/-! ## The reset state (R8, R32) -/

/-- A file of invalid slots has a context at no index, in range or not. -/
theorem join_getElem?_replicate_none {α : Type} (k n : Nat) : (List.replicate k (none : Option α))[n]?.join = none := by
  rw [List.getElem?_replicate]
  split <;> rfl

@[simp] theorem reset_valid (alg : Alg) (n : Nat) : State.reset.valid alg n = false := by
  cases alg <;> exact congrArg Option.isSome (join_getElem?_replicate_none _ n)

/-- NSLOT_SHA is 1 to 256, since the highest index is one of 0 to 255 (R8). -/
theorem nslotSha_bounds : 1 ≤ Config.nslotSha ∧ Config.nslotSha ≤ 256 :=
  ⟨Nat.succ_pos _, Config.lastSlotSha.isLt⟩

theorem nslotMd5_bounds : 1 ≤ Config.nslotMd5 ∧ Config.nslotMd5 ≤ 256 :=
  ⟨Nat.succ_pos _, Config.lastSlotMd5.isLt⟩

@[simp] theorem reset_nslot_sha256 : State.reset.nslot .sha256 = Config.nslotSha := List.length_replicate

@[simp] theorem reset_nslot_md5 : State.reset.nslot .md5 = Config.nslotMd5 := List.length_replicate

theorem reset_nslot_bounds (alg : Alg) : 1 ≤ State.reset.nslot alg ∧ State.reset.nslot alg ≤ 256 := by
  cases alg with
  | sha256 => simpa using nslotSha_bounds
  | md5 => simpa using nslotMd5_bounds

/-- Settles O12, by the slots and the counts of the reset state; the port and the response are empty by definition. -/
theorem resetStateHoldsNothing : Obligations.ResetStateHoldsNothing :=
  ⟨reset_valid, rfl, rfl, reset_nslot_bounds⟩

/-- Settles O58: both files hold invalid slots only, in an allowed number, and there is no response. -/
theorem invariantAtReset : Obligations.InvariantAtReset := by
  obtain ⟨hshaLo, hshaHi⟩ := nslotSha_bounds
  obtain ⟨hmd5Lo, hmd5Hi⟩ := nslotMd5_bounds
  exact ⟨fileOk_replicate_none hshaLo hshaHi, fileOk_replicate_none hmd5Lo hmd5Hi, nofun⟩

/-! ## The frame of a command (R22, R61) -/

theorem SameSlot.refl (alg : Alg) (n : Nat) (s : State) : SameSlot alg n s s := by
  cases alg <;> rfl

/-- A slot that is the same in two states has the same VALID in both. -/
theorem SameSlot.valid_eq {alg : Alg} {n : Nat} {s t : State} (h : SameSlot alg n s t) : t.valid alg n = s.valid alg n := by
  cases alg <;> simp only [State.valid, show _ = _ from h]

/-- What a command does to the state: it replaces the response, and if it writes, it makes one existing slot of its own file
valid and answers OK without data. If it reads the slot it writes, that slot was valid before. -/
inductive SlotEffect (s : State) (i : Instr) : State → Prop
  | response (r : Response) : SlotEffect s i { s with rsp := some r }
  | sha (n : Nat) (c : Ctx ShaVec) (halg : i.alg = .sha256) (hw : i.slotWritten = some n) (hn : n < s.ctxSha.length)
      (hread : i.slotRead = some n → s.valid .sha256 n = true) :
      SlotEffect s i { s with ctxSha := s.ctxSha.set n (some c), rsp := some ⟨0x00, []⟩ }
  | md5 (n : Nat) (c : Ctx Md5Vec) (halg : i.alg = .md5) (hw : i.slotWritten = some n) (hn : n < s.ctxMd5.length)
      (hread : i.slotRead = some n → s.valid .md5 n = true) :
      SlotEffect s i { s with ctxMd5 := s.ctxMd5.set n (some c), rsp := some ⟨0x00, []⟩ }

theorem valid_sha_of_getElem? {s : State} {n : Nat} {c : Ctx ShaVec} (h : s.ctxSha[n]? = some (some c)) :
    s.valid .sha256 n = true := by
  simp [State.valid, h]

theorem valid_md5_of_getElem? {s : State} {n : Nat} {c : Ctx Md5Vec} (h : s.ctxMd5[n]? = some (some c)) :
    s.valid .md5 n = true := by
  simp [State.valid, h]

theorem lt_length_of_getElem? {SV : Type} {f : SlotFile SV} {n : Nat} {x : Option (Ctx SV)}
    (h : f[n]? = some x) : n < f.length :=
  (List.getElem?_eq_some_iff.mp h).1

theorem Succeeds.slotEffect {s t : State} {i : Instr} (h : Succeeds s t i) : SlotEffect s i t := by
  cases i with
  | sha256Init n =>
    obtain ⟨hn, rfl⟩ := h
    exact .sha n _ rfl rfl hn nofun
  | md5Init n =>
    obtain ⟨hn, rfl⟩ := h
    exact .md5 n _ rfl rfl hn nofun
  | sha256Update n data =>
    obtain ⟨c, hc, rfl⟩ := h
    exact .sha n _ rfl rfl (lt_length_of_getElem? hc) fun _ => valid_sha_of_getElem? hc
  | md5Update n data =>
    obtain ⟨c, hc, rfl⟩ := h
    exact .md5 n _ rfl rfl (lt_length_of_getElem? hc) fun _ => valid_md5_of_getElem? hc
  | sha256Copy d r =>
    obtain ⟨hd, c, hc, rfl⟩ := h
    exact .sha d _ rfl rfl hd fun hr => Option.some.inj hr ▸ valid_sha_of_getElem? hc
  | md5Copy d r =>
    obtain ⟨hd, c, hc, rfl⟩ := h
    exact .md5 d _ rfl rfl hd fun hr => Option.some.inj hr ▸ valid_md5_of_getElem? hc
  | sha256Digest n | md5Digest n | sha256Hexdigest n | md5Hexdigest n =>
    obtain ⟨c, -, rfl⟩ := h
    exact .response _

theorem slotEffect_of_exec {i : Instr} {s t : State} (h : exec i s = .next t) : SlotEffect s i t := by
  rcases exec_inversion h with hs | ⟨e, -, rfl⟩
  · exact hs.slotEffect
  · exact .response _

namespace SlotEffect

variable {s t : State} {i : Instr} (h : SlotEffect s i t)
include h

theorem inputs_eq : t.inputs = s.inputs := by
  cases h <;> rfl

theorem nslot_eq (alg : Alg) : t.nslot alg = s.nslot alg := by
  cases h with
  | response r => rfl
  | sha n c | md5 n c => cases alg <;> simp [State.nslot]

/-- Every slot but the one written is the same (R22). -/
theorem sameSlot {alg : Alg} {n : Nat} (hne : ¬ (alg = i.alg ∧ i.slotWritten = some n)) : SameSlot alg n s t := by
  cases h with
  | response r => exact SameSlot.refl alg n s
  | sha m c halg hw =>
    cases alg with
    | md5 => rfl
    | sha256 =>
      have hmn : m ≠ n := fun e => hne ⟨halg.symm, e ▸ hw⟩
      exact (List.getElem?_set_ne hmn).symm
  | md5 m c halg hw =>
    cases alg with
    | sha256 => rfl
    | md5 =>
      have hmn : m ≠ n := fun e => hne ⟨halg.symm, e ▸ hw⟩
      exact (List.getElem?_set_ne hmn).symm

/-- The slot an instruction may write keeps its VALID, or becomes valid with an OK; one the instruction also reads was valid. -/
theorem valid_slotWritten {n : Nat} (hn : i.slotWritten = some n) :
    t.valid i.alg n = s.valid i.alg n ∨
      (t.valid i.alg n = true ∧ t.rsp = some ⟨0x00, []⟩ ∧ (i.slotRead = some n → s.valid i.alg n = true)) := by
  cases h with
  | response r => exact .inl rfl
  | sha m c halg hw hlt hread =>
    obtain rfl : m = n := Option.some.inj (hw.symm.trans hn)
    rw [halg]
    exact .inr ⟨valid_sha_of_getElem? (List.getElem?_set_self hlt), rfl, hread⟩
  | md5 m c halg hw hlt hread =>
    obtain rfl : m = n := Option.some.inj (hw.symm.trans hn)
    rw [halg]
    exact .inr ⟨valid_md5_of_getElem? (List.getElem?_set_self hlt), rfl, hread⟩

end SlotEffect

/-- Settles O28: whatever the instruction does is a `SlotEffect`, which touches one slot and the response. -/
theorem commandFrame : Obligations.CommandFrame := by
  intro i s t h
  have heff := slotEffect_of_exec h
  exact ⟨heff.inputs_eq, heff.nslot_eq, fun _ _ hne => heff.sameSlot hne⟩

/-- An instruction that writes a slot names it SLOT, and is an INIT or a COPY unless it reads that slot first (UPDATE). -/
theorem slotWritten_kind {i : Instr} {n : Nat} (h : i.slotWritten = some n) :
    n = i.slot ∧ (i.slotRead = some n ∨ i = .sha256Init n ∨ i = .md5Init n ∨
      ∃ r, i = .sha256Copy n r ∨ i = .md5Copy n r) := by
  cases i <;> cases h <;> simp [Instr.slot, Instr.slotRead]

/-- Settles O30: a slot not written keeps its VALID; the slot written ends valid, and was valid before unless INIT or COPY
wrote it. -/
theorem validBitWriters : Obligations.ValidBitWriters := by
  intro i s t h alg n
  have heff := slotEffect_of_exec h
  by_cases hw : alg = i.alg ∧ i.slotWritten = some n
  · obtain ⟨rfl, hn⟩ := hw
    obtain ⟨hslot, hkind⟩ := slotWritten_kind hn
    rcases heff.valid_slotWritten hn with hsame | ⟨hvalid, hrsp, hread⟩
    · simp +contextual [hsame]
    · refine ⟨fun _ => hvalid, fun hinvalid _ => ⟨hrsp, rfl, hslot, hkind.resolve_left fun hr => ?_⟩⟩
      simp [hread hr] at hinvalid
  · have hsame := (heff.sameSlot hw).valid_eq
    simp +contextual [hsame]

/-! ## Slot counts (R20, R33) -/

@[simp] theorem nslot_performReset (s : State) (alg : Alg) : s.performReset.nslot alg = s.nslot alg := by
  cases alg <;> exact List.length_replicate

@[simp] theorem nslot_fail (s : State) (e : Status) (alg : Alg) : (s.fail e).nslot alg = s.nslot alg := rfl

@[simp] theorem nslot_withInputs (s : State) (rest : List PortInput) (alg : Alg) :
    State.nslot { s with inputs := rest } alg = s.nslot alg := rfl

/-- Settles O31, by what a step can do: only a reset and a command touch the files, and both keep their lengths. -/
theorem slotCountsNeverChange : Obligations.SlotCountsNeverChange := by
  intro s t h alg
  obtain ⟨-, rfl⟩ | ⟨rest, ⟨-, rfl⟩ | ⟨c, -, ⟨why, -, rfl⟩ | ⟨i, -, hexec⟩⟩⟩ := step_inversion h
  · rfl
  · simp
  · simp
  · exact (slotEffect_of_exec hexec).nslot_eq alg

/-! ## UPDATE's byte counts (R27, R28, R208, R209) -/

section
variable {SV : Type} (compress : SV → Block → SV) (c : Ctx SV) (data : List Byte)

theorem absorb_blen : (absorb compress c data).blen = (c.blen + data.length) % 64 := by
  simp only [absorb, Ctx.blen, leftover_length, List.length_append]

theorem absorb_cnt_toNat : (absorb compress c data).cnt.toNat = (c.cnt.toNat + data.length) % 2 ^ 64 := by
  simp [absorb, BitVec.toNat_add]

/-- Data that does not complete a block only waits in the buffer. -/
theorem absorb_of_lt (h : c.blen + data.length < 64) :
    (absorb compress c data).sv = c.sv ∧ (absorb compress c data).buf = c.buf ++ data := by
  have hlen : (c.buf ++ data).length < 64 := by simpa using h
  simp [absorb, blocks_of_lt hlen, leftover_of_lt hlen]

/-- UPDATE of a valid slot writes the absorbed context to it. -/
theorem updateSlot_of_valid {f : SlotFile SV} {n : Nat} {c : Ctx SV} (h : f[n]? = some (some c)) :
    ∃ g, updateSlot compress f n data = .ok g ∧ g[n]? = some (some (absorb compress c data)) :=
  ⟨_, updateSlot_eq_ok.mpr ⟨c, h, rfl⟩, List.getElem?_set_self (lt_length_of_getElem? h)⟩

end

theorem finishSha_ok_ctxSha {s t : State} {f : SlotFile ShaVec} (h : s.finishSha (.ok f) = .next t) : t.ctxSha = f := by
  cases h; rfl

theorem finishMd5_ok_ctxMd5 {s t : State} {f : SlotFile Md5Vec} (h : s.finishMd5 (.ok f) = .next t) : t.ctxMd5 = f := by
  cases h; rfl

/-- Settles O48: UPDATE of a valid slot leaves the absorbed context there, whose fields are known. -/
theorem updateCountsBytes : Obligations.UpdateCountsBytes := by
  constructor
  · intro s t slot data c hc h
    obtain ⟨g, hg, hslot⟩ := updateSlot_of_valid sha256Compress data hc
    rw [exec, execSha256Update, hg] at h
    exact ⟨_, finishSha_ok_ctxSha h ▸ hslot, absorb_cnt_toNat _ c data, absorb_blen _ c data, absorb_of_lt _ c data⟩
  · intro s t slot data c hc h
    obtain ⟨g, hg, hslot⟩ := updateSlot_of_valid md5Compress data hc
    rw [exec, execMd5Update, hg] at h
    exact ⟨_, finishMd5_ok_ctxMd5 h ▸ hslot, absorb_cnt_toNat _ c data, absorb_blen _ c data, absorb_of_lt _ c data⟩

/-! ## The standing response (R24) -/

section
variable (s : State) (old : Option Response)

theorem finishSha_withRsp (r : Except Status (SlotFile ShaVec)) : State.finishSha { s with rsp := old } r = s.finishSha r := by
  cases r <;> rfl

theorem finishMd5_withRsp (r : Except Status (SlotFile Md5Vec)) : State.finishMd5 { s with rsp := old } r = s.finishMd5 r := by
  cases r <;> rfl

theorem answer_withRsp (r : Except Status (List Byte)) : State.answer { s with rsp := old } r = s.answer r := by
  cases r <;> rfl

end

/-- Settles O45: a command reads the slot files only, and its end replaces the response whether it succeeds or fails. -/
theorem outcomeIgnoresOldResponse : Obligations.OutcomeIgnoresOldResponse := by
  intro i s old
  cases i with
  | sha256Init | sha256Update | sha256Copy => exact finishSha_withRsp s old _
  | md5Init | md5Update | md5Copy => exact finishMd5_withRsp s old _
  | sha256Digest | md5Digest | sha256Hexdigest | md5Hexdigest => exact answer_withRsp s old _

/-! ## The other algorithm's file (R22, R83) -/

section
variable {s t : State}

theorem finishSha_withCtxMd5 {r : Except Status (SlotFile ShaVec)} (h : s.finishSha r = .next t) (file : SlotFile Md5Vec) :
    State.finishSha { s with ctxMd5 := file } r = .next { t with ctxMd5 := file } := by
  cases r <;> cases h <;> rfl

theorem finishMd5_withCtxSha {r : Except Status (SlotFile Md5Vec)} (h : s.finishMd5 r = .next t) (file : SlotFile ShaVec) :
    State.finishMd5 { s with ctxSha := file } r = .next { t with ctxSha := file } := by
  cases r <;> cases h <;> rfl

theorem answer_withCtxMd5 {r : Except Status (List Byte)} (h : s.answer r = .next t) (file : SlotFile Md5Vec) :
    State.answer { s with ctxMd5 := file } r = .next { t with ctxMd5 := file } := by
  cases r <;> cases h <;> rfl

theorem answer_withCtxSha {r : Except Status (List Byte)} (h : s.answer r = .next t) (file : SlotFile ShaVec) :
    State.answer { s with ctxSha := file } r = .next { t with ctxSha := file } := by
  cases r <;> cases h <;> rfl

end

/-- Settles O55: a command computes its result from its own file, and the end of a command carries the other file along. -/
theorem algorithmsShareNoState : Obligations.AlgorithmsShareNoState := by
  intro i s t h
  cases i with
  | sha256Init | sha256Update | sha256Copy => exact ⟨fun _ => finishSha_withCtxMd5 h, nofun⟩
  | sha256Digest | sha256Hexdigest => exact ⟨fun _ => answer_withCtxMd5 h, nofun⟩
  | md5Init | md5Update | md5Copy => exact ⟨nofun, fun _ => finishMd5_withCtxSha h⟩
  | md5Digest | md5Hexdigest => exact ⟨nofun, fun _ => answer_withCtxSha h⟩

/-! ## What a command can learn of a file (R22) -/

section
variable {SV : Type} {f g : SlotFile SV}

/-- A check of a slot that need only exist depends on the slot count only. -/
theorem checkSlot_congr (hlen : f.length = g.length) (n : Nat) : checkSlot f n = checkSlot g n := by
  rw [checkSlot, checkSlot, hlen]

/-- A read of a slot depends on that slot only. -/
theorem readSlot_congr {n : Nat} (h : f[n]? = g[n]?) : readSlot f n = readSlot g n := by
  rw [readSlot, readSlot, h]

theorem checkSlot_error_byte_ne_zero {n : Nat} {e : Status} (h : checkSlot f n = .error e) : e.byte ≠ 0x00 := by
  obtain ⟨-, rfl⟩ := checkSlot_eq_error.mp h
  decide

theorem readSlot_error_byte_ne_zero {n : Nat} {e : Status} (h : readSlot f n = .error e) : e.byte ≠ 0x00 := by
  obtain ⟨-, rfl⟩ | ⟨-, rfl⟩ := readSlot_eq_error.mp h <;> decide

/-- Two results of a file operation that agree on slot n: two files with the same slot n, or the same error,
whose status byte is not that of success. -/
inductive AgreeAt (n : Nat) : Except Status (SlotFile SV) → Except Status (SlotFile SV) → Prop
  | ok {f g : SlotFile SV} (h : f[n]? = g[n]?) : AgreeAt n (.ok f) (.ok g)
  | error {e : Status} (h : e.byte ≠ 0x00) : AgreeAt n (.error e) (.error e)

/-- One context written to slot n of two files of one length leaves the same slot n. -/
theorem writeSlot_getElem?_congr (hlen : f.length = g.length) (n : Nat) (c : Ctx SV) :
    (writeSlot f n c)[n]? = (writeSlot g n c)[n]? := by
  simp [writeSlot, List.getElem?_set, hlen]

/-- A write of what one operand check gives agrees on the slot written. -/
theorem agreeAt_map_writeSlot {α : Type} (hlen : f.length = g.length) (n : Nat) (ctx : α → Ctx SV) {r : Except Status α}
    (herr : ∀ e, r = .error e → e.byte ≠ 0x00) :
    AgreeAt n (r.map fun a => writeSlot f n (ctx a)) (r.map fun a => writeSlot g n (ctx a)) := by
  cases r with
  | ok a => exact .ok (writeSlot_getElem?_congr hlen n (ctx a))
  | error e => exact .error (herr e rfl)

theorem initSlot_agreeAt (iv : SV) (hlen : f.length = g.length) (n : Nat) :
    AgreeAt n (initSlot iv f n) (initSlot iv g n) := by
  rw [initSlot, initSlot, ← checkSlot_congr hlen]
  exact agreeAt_map_writeSlot hlen n _ fun _ => checkSlot_error_byte_ne_zero

theorem updateSlot_agreeAt (compress : SV → Block → SV) (hlen : f.length = g.length) {n : Nat} (h : f[n]? = g[n]?)
    (data : List Byte) : AgreeAt n (updateSlot compress f n data) (updateSlot compress g n data) := by
  rw [updateSlot, updateSlot, ← readSlot_congr h]
  exact agreeAt_map_writeSlot hlen n _ fun _ => readSlot_error_byte_ne_zero

theorem copySlot_agreeAt (hlen : f.length = g.length) (d : Nat) {r : Nat} (h : f[r]? = g[r]?) :
    AgreeAt d (copySlot f d r) (copySlot g d r) := by
  rw [copySlot, copySlot, ← checkSlot_congr hlen, ← readSlot_congr h]
  match hd : checkSlot f d with
  | .error e => exact .error (checkSlot_error_byte_ne_zero hd)
  | .ok () => exact agreeAt_map_writeSlot hlen d _ fun _ => readSlot_error_byte_ne_zero

theorem digestSlot_congr (fin : Ctx SV → List Byte) {n : Nat} (h : f[n]? = g[n]?) :
    digestSlot fin f n = digestSlot fin g n := by
  rw [digestSlot, digestSlot, readSlot_congr h]

theorem hexdigestSlot_congr (fin : Ctx SV → List Byte) {n : Nat} (h : f[n]? = g[n]?) :
    hexdigestSlot fin f n = hexdigestSlot fin g n := by
  rw [hexdigestSlot, hexdigestSlot, readSlot_congr h]

end

/-- Two states after a command that answer alike: the same response, and on success the same contents of the slot written. -/
def AnswerAlike (alg : Alg) (written : Option Nat) (t t' : State) : Prop :=
  t.rsp = t'.rsp ∧ ∀ r n, t.rsp = some r → r.status = 0x00 → written = some n → SameSlot alg n t t'

section
variable {s s' t t' : State}

theorem finishSha_answerAlike {n : Nat} {r r' : Except Status (SlotFile ShaVec)} (h : AgreeAt n r r')
    (ht : s.finishSha r = .next t) (ht' : s'.finishSha r' = .next t') : AnswerAlike .sha256 (some n) t t' := by
  cases h with
  | ok h =>
    cases ht; cases ht'
    exact ⟨rfl, fun _ _ _ _ hn => Option.some.inj hn ▸ h⟩
  | error he =>
    cases ht; cases ht'
    exact ⟨rfl, fun _ _ hr hok _ => by cases hr; exact absurd hok he⟩

theorem finishMd5_answerAlike {n : Nat} {r r' : Except Status (SlotFile Md5Vec)} (h : AgreeAt n r r')
    (ht : s.finishMd5 r = .next t) (ht' : s'.finishMd5 r' = .next t') : AnswerAlike .md5 (some n) t t' := by
  cases h with
  | ok h =>
    cases ht; cases ht'
    exact ⟨rfl, fun _ _ _ _ hn => Option.some.inj hn ▸ h⟩
  | error he =>
    cases ht; cases ht'
    exact ⟨rfl, fun _ _ hr hok _ => by cases hr; exact absurd hok he⟩

theorem answer_answerAlike (alg : Alg) {r r' : Except Status (List Byte)} (h : r = r')
    (ht : s.answer r = .next t) (ht' : s'.answer r' = .next t') : AnswerAlike alg none t t' := by
  subst h
  refine ⟨?_, nofun⟩
  cases r <;> cases ht <;> cases ht' <;> rfl

end

/-- Settles O56: the result of each file operation is determined, at the slot written, by the slot count and the slot read. -/
theorem commandSeesOnlyItsSlot : Obligations.CommandSeesOnlyItsSlot := by
  intro i s s' t t' hcount hread ht ht'
  change AnswerAlike i.alg i.slotWritten t t'
  have hsha : s.ctxSha.length = s'.ctxSha.length := hcount .sha256
  have hmd5 : s.ctxMd5.length = s'.ctxMd5.length := hcount .md5
  cases i with
  | sha256Init n => exact finishSha_answerAlike (initSlot_agreeAt _ hsha n) ht ht'
  | md5Init n => exact finishMd5_answerAlike (initSlot_agreeAt _ hmd5 n) ht ht'
  | sha256Update n data => exact finishSha_answerAlike (updateSlot_agreeAt _ hsha (hread n rfl) data) ht ht'
  | md5Update n data => exact finishMd5_answerAlike (updateSlot_agreeAt _ hmd5 (hread n rfl) data) ht ht'
  | sha256Digest n => exact answer_answerAlike .sha256 (digestSlot_congr _ (hread n rfl)) ht ht'
  | md5Digest n => exact answer_answerAlike .md5 (digestSlot_congr _ (hread n rfl)) ht ht'
  | sha256Hexdigest n => exact answer_answerAlike .sha256 (hexdigestSlot_congr _ (hread n rfl)) ht ht'
  | md5Hexdigest n => exact answer_answerAlike .md5 (hexdigestSlot_congr _ (hread n rfl)) ht ht'
  | sha256Copy d r => exact finishSha_answerAlike (copySlot_agreeAt hsha d (hread r rfl)) ht ht'
  | md5Copy d r => exact finishMd5_answerAlike (copySlot_agreeAt hmd5 d (hread r rfl)) ht ht'

end Sys2Proof.Machine

/-! PROOFS of 20_memory: cutting a byte sequence into blocks (R69, R201), the streams the slots hold (R63), and commands that
commute (R73, R22). -/

namespace Sys2Proof.Machine

/-! ## Blocks of a sequence (R69, R201) -/

/-- Induction along the blocks of a sequence: it is shorter than a block, or the claim holds of what follows its first block. -/
theorem block_induction {motive : List Byte → Prop} (short : ∀ q, q.length < 64 → motive q)
    (block : ∀ q, 64 ≤ q.length → motive (q.drop 64) → motive q) (q : List Byte) : motive q :=
  if h : q.length < 64 then short q h
  else block q (by omega) (block_induction short block (q.drop 64))
termination_by q.length
decreasing_by simp; omega

theorem firstBlock_toList {q : List Byte} (h : 64 ≤ q.length) : (firstBlock q h).toList = q.take 64 := rfl

/-- What follows a sequence that has a block does not change its first block. -/
theorem firstBlock_append {q : List Byte} (d : List Byte) (h : 64 ≤ q.length) (h' : 64 ≤ (q ++ d).length) :
    firstBlock (q ++ d) h' = firstBlock q h := by
  simp only [firstBlock, List.take_append_of_le_length h]

/-- The blocks in order, then the bytes left over, are the sequence. -/
theorem blocks_flatMap_append_leftover (q : List Byte) :
    ((blocks q).flatMap fun blk => blk.toList) ++ leftover q = q := by
  induction q using block_induction with
  | short q h => rw [blocks_of_lt h, leftover_of_lt h]; rfl
  | block q h ih =>
    rw [blocks_of_le h, leftover_of_le h, List.flatMap_cons, firstBlock_toList, List.append_assoc, ih,
      List.take_append_drop]

theorem blocks_length (q : List Byte) : (blocks q).length = q.length / 64 := by
  induction q using block_induction with
  | short q h => rw [blocks_of_lt h, Nat.div_eq_of_lt h]; rfl
  | block q h ih =>
    rw [blocks_of_le h, List.length_cons, ih, List.length_drop]
    omega

/-- Settles O40, by induction along the blocks. -/
theorem blocksCutStream : Obligations.BlocksCutStream :=
  fun q => ⟨blocks_flatMap_append_leftover q, blocks_length q, leftover_length q⟩

/-- The blocks of q and more data: those of q, then those of what q left over and the data. -/
theorem blocks_append (q d : List Byte) : blocks (q ++ d) = blocks q ++ blocks (leftover q ++ d) := by
  induction q using block_induction with
  | short q h => rw [blocks_of_lt h, leftover_of_lt h, List.nil_append]
  | block q h ih =>
    have h' : 64 ≤ (q ++ d).length := by rw [List.length_append]; omega
    rw [blocks_of_le h', firstBlock_append d h, List.drop_append_of_le_length h, ih, blocks_of_le h, leftover_of_le h,
      List.cons_append]

theorem leftover_append (q d : List Byte) : leftover (q ++ d) = leftover (leftover q ++ d) := by
  induction q using block_induction with
  | short q h => rw [leftover_of_lt h]
  | block q h ih =>
    have h' : 64 ≤ (q ++ d).length := by rw [List.length_append]; omega
    rw [leftover_of_le h', List.drop_append_of_le_length h, ih, leftover_of_le h]

/-! ## How a command ends (R200, R258) -/

/-- A success answers status 0x00. -/
theorem Succeeds.rsp_eq {s t : State} {i : Instr} (h : Succeeds s t i) : ∃ d, t.rsp = some ⟨0x00, d⟩ := by
  cases i with
  | sha256Init | md5Init =>
    obtain ⟨-, rfl⟩ := h
    exact ⟨_, rfl⟩
  | sha256Copy | md5Copy =>
    obtain ⟨-, c, -, rfl⟩ := h
    exact ⟨_, rfl⟩
  | sha256Update | md5Update | sha256Digest | md5Digest | sha256Hexdigest | md5Hexdigest =>
    obtain ⟨c, -, rfl⟩ := h
    exact ⟨_, rfl⟩

theorem FailsWith.byte_ne_zero {s : State} {i : Instr} {e : Status} (h : FailsWith s i e) : e.byte ≠ 0x00 := by
  rcases h with ⟨rfl, -⟩ | ⟨rfl, -⟩ <;> decide

/-- Every command leaves a response. -/
theorem exec_rsp_eq_some {i : Instr} {s t : State} (h : exec i s = .next t) : ∃ r, t.rsp = some r := by
  rcases exec_inversion h with hs | ⟨e, -, rfl⟩
  · obtain ⟨d, hd⟩ := hs.rsp_eq
    exact ⟨_, hd⟩
  · exact ⟨_, rfl⟩

/-- The status of the response tells whether the instruction had its effect or changed nothing but the response. -/
theorem exec_status {i : Instr} {s t : State} {r : Response} (h : exec i s = .next t) (hr : t.rsp = some r) :
    (r.status = 0x00 ∧ Succeeds s t i) ∨ (r.status ≠ 0x00 ∧ ∃ e, t = s.fail e) := by
  rcases exec_inversion h with hs | ⟨e, he, rfl⟩
  · obtain ⟨d, hd⟩ := hs.rsp_eq
    obtain rfl := Option.some.inj (hr.symm.trans hd)
    exact .inl ⟨rfl, hs⟩
  · obtain rfl := Option.some.inj hr
    exact .inr ⟨he.byte_ne_zero, e, rfl⟩

/-! ## The streams of the slots (R63) -/

section
variable {SV : Type} {iv : SV} {compress : SV → Block → SV}

/-- INIT leaves an empty stream. -/
theorem holdsStream_freshCtx : HoldsStream iv compress (freshCtx iv) [] :=
  ⟨rfl, rfl, rfl⟩

/-- ABSORB appends to the stream: the pending bytes and the data give the blocks that follow those already compressed (R201). -/
theorem HoldsStream.absorb {c : Ctx SV} {m : List Byte} (h : HoldsStream iv compress c m) (d : List Byte) :
    HoldsStream iv compress (absorb compress c d) (m ++ d) := by
  obtain ⟨hsv, hbuf, hcnt⟩ := h
  refine ⟨?_, ?_, ?_⟩
  · simp only [Machine.absorb, hsv, hbuf, blocks_append m d, List.foldl_append]
  · simp only [Machine.absorb, hbuf, leftover_append m d]
  · simp only [Machine.absorb, hcnt, List.length_append, BitVec.ofNat_add]

/-- `m n` is the stream of every valid slot n of one file: `Tracks` for one algorithm. -/
def FileTracks (iv : SV) (compress : SV → Block → SV) (f : SlotFile SV) (m : Nat → List Byte) : Prop :=
  ∀ n c, f[n]? = some (some c) → HoldsStream iv compress c (m n)

/-- Writing to slot k a context that holds `new` replaces the stream of slot k only. -/
theorem FileTracks.set {f : SlotFile SV} {m : Nat → List Byte} (h : FileTracks iv compress f m) (k : Nat) {c : Ctx SV}
    {new : List Byte} (hc : HoldsStream iv compress c new) :
    FileTracks iv compress (f.set k (some c)) (Function.update m k new) := by
  intro n c' hn
  by_cases hkn : k = n
  · subst hkn
    have hlt : k < f.length := by simpa using lt_length_of_getElem? hn
    rw [List.getElem?_set_self hlt] at hn
    cases hn
    simpa using hc
  · rw [List.getElem?_set_ne hkn] at hn
    simpa [Function.update_of_ne (Ne.symm hkn)] using h n c' hn

end

theorem tracks_iff {s : State} {m : Alg → Nat → List Byte} :
    Tracks s m ↔ FileTracks ivSha sha256Compress s.ctxSha (m .sha256) ∧ FileTracks ivMd5 md5Compress s.ctxMd5 (m .md5) :=
  Iff.rfl

@[simp] theorem setStream_same (m : Alg → Nat → List Byte) (alg : Alg) (n : Nat) (new : List Byte) :
    setStream m alg n new alg = Function.update (m alg) n new := by
  funext k
  simp [setStream, Function.update_apply]

theorem setStream_of_ne (m : Alg → Nat → List Byte) {alg alg' : Alg} (h : alg' ≠ alg) (n : Nat) (new : List Byte) :
    setStream m alg n new alg' = m alg' := by
  funext k
  simp [setStream, h]

namespace Tracks

variable {s : State} {m : Alg → Nat → List Byte} (h : Tracks s m)
include h

/-- The streams do not depend on the response. -/
theorem withResponse (r : Option Response) : Tracks { s with rsp := r } m := h

theorem setSha (n : Nat) {c : Ctx ShaVec} {new : List Byte} (hc : HoldsStream ivSha sha256Compress c new) :
    Tracks { s with ctxSha := s.ctxSha.set n (some c) } (setStream m .sha256 n new) := by
  obtain ⟨hsha, hmd5⟩ := tracks_iff.mp h
  rw [tracks_iff, setStream_same, setStream_of_ne m (by decide)]
  exact ⟨hsha.set n hc, hmd5⟩

theorem setMd5 (n : Nat) {c : Ctx Md5Vec} {new : List Byte} (hc : HoldsStream ivMd5 md5Compress c new) :
    Tracks { s with ctxMd5 := s.ctxMd5.set n (some c) } (setStream m .md5 n new) := by
  obtain ⟨hsha, hmd5⟩ := tracks_iff.mp h
  rw [tracks_iff, setStream_same, setStream_of_ne m (by decide)]
  exact ⟨hsha, hmd5.set n hc⟩

/-- The effect of every instruction that succeeds on the streams. -/
theorem of_succeeds {t : State} {i : Instr} (hs : Succeeds s t i) : Tracks t (streamsAfter m i) := by
  obtain ⟨hsha, hmd5⟩ := tracks_iff.mp h
  cases i with
  | sha256Init n =>
    obtain ⟨-, rfl⟩ := hs
    exact (h.setSha n holdsStream_freshCtx).withResponse _
  | md5Init n =>
    obtain ⟨-, rfl⟩ := hs
    exact (h.setMd5 n holdsStream_freshCtx).withResponse _
  | sha256Update n data =>
    obtain ⟨c, hc, rfl⟩ := hs
    exact (h.setSha n ((hsha n c hc).absorb data)).withResponse _
  | md5Update n data =>
    obtain ⟨c, hc, rfl⟩ := hs
    exact (h.setMd5 n ((hmd5 n c hc).absorb data)).withResponse _
  | sha256Copy d r =>
    obtain ⟨-, c, hc, rfl⟩ := hs
    exact (h.setSha d (hsha r c hc)).withResponse _
  | md5Copy d r =>
    obtain ⟨-, c, hc, rfl⟩ := hs
    exact (h.setMd5 d (hmd5 r c hc)).withResponse _
  | sha256Digest | md5Digest | sha256Hexdigest | md5Hexdigest =>
    obtain ⟨c, -, rfl⟩ := hs
    exact h.withResponse _

end Tracks

/-- Settles O52: a success writes a context that holds the new stream of its slot; a failure writes none. -/
theorem streamsFollowCommands : Obligations.StreamsFollowCommands := by
  intro s t m i r h ht hr
  rcases exec_status ht hr with ⟨hok, hs⟩ | ⟨herr, e, rfl⟩
  · rw [if_pos hok]
    exact h.of_succeeds hs
  · rw [if_neg herr]
    exact h.withResponse _

/-! ## Commands that commute (R73, R22) -/

namespace SameSlot

variable {alg : Alg} {n : Nat} {s t u : State}

theorem symm (h : SameSlot alg n s t) : SameSlot alg n t s := by
  cases alg <;> exact Eq.symm h

theorem trans (h : SameSlot alg n s t) (h' : SameSlot alg n t u) : SameSlot alg n s u := by
  cases alg <;> exact Eq.trans h h'

theorem fail (alg : Alg) (n : Nat) (s : State) (e : Status) : SameSlot alg n s (s.fail e) := by
  cases alg <;> rfl

end SameSlot

theorem slotRead_mem_slots {i : Instr} {n : Nat} (h : i.slotRead = some n) : n ∈ i.slots := by
  cases i <;> cases h <;> simp [Instr.slots, Instr.slot, Instr.source]

theorem slotWritten_mem_slots {i : Instr} {n : Nat} (h : i.slotWritten = some n) : n ∈ i.slots := by
  obtain ⟨rfl, -⟩ := slotWritten_kind h
  exact List.mem_cons_self

/-- In two states with the same slot counts that agree on the slot an instruction reads, a slot on which they agree is the same
after the instruction, whether it is the one written or not, and on success and failure alike. -/
theorem sameSlot_exec {i : Instr} {s s' t t' : State} (hcount : ∀ alg, s.nslot alg = s'.nslot alg)
    (hread : ∀ n, i.slotRead = some n → SameSlot i.alg n s s') (ht : exec i s = .next t) (ht' : exec i s' = .next t')
    {alg : Alg} {n : Nat} (h : SameSlot alg n s s') : SameSlot alg n t t' := by
  by_cases hw : alg = i.alg ∧ i.slotWritten = some n
  · obtain ⟨rfl, hn⟩ := hw
    obtain ⟨hrsp, hwritten⟩ := commandSeesOnlyItsSlot i s s' t t' hcount hread ht ht'
    obtain ⟨r, hr⟩ := exec_rsp_eq_some ht
    rcases exec_status ht hr with ⟨hok, -⟩ | ⟨herr, e, rfl⟩
    · exact hwritten r n hr hok hn
    · rcases exec_status ht' (hrsp ▸ hr) with ⟨hok, -⟩ | ⟨-, e', rfl⟩
      · exact absurd hok herr
      · exact ((SameSlot.fail _ _ s e).symm.trans h).trans (SameSlot.fail _ _ s' e')
  · exact (((slotEffect_of_exec ht).sameSlot hw).symm.trans h).trans ((slotEffect_of_exec ht').sameSlot hw)

/-- Instruction j writes no slot of the file that i names. -/
def WritesNoSlotOf (j i : Instr) : Prop := i.alg = j.alg → ∀ n, j.slotWritten = some n → n ∉ i.slots

section
variable {i j : Instr} {s ti tj tij tji : State}

/-- An instruction that writes no slot another names leaves every such slot as it was. -/
theorem WritesNoSlotOf.sameSlot (h : WritesNoSlotOf j i) (hj : exec j s = .next tj) {n : Nat} (hn : n ∈ i.slots) :
    SameSlot i.alg n s tj :=
  (slotEffect_of_exec hj).sameSlot fun ⟨halg, hw⟩ => h halg n hw hn

/-- The other instruction run first does not change the response. -/
theorem WritesNoSlotOf.rsp_eq (h : WritesNoSlotOf j i) (hi : exec i s = .next ti) (hj : exec j s = .next tj)
    (hji : exec i tj = .next tji) : ti.rsp = tji.rsp :=
  (commandSeesOnlyItsSlot i s tj ti tji (fun alg => ((slotEffect_of_exec hj).nslot_eq alg).symm)
    (fun _ hn => h.sameSlot hj (slotRead_mem_slots hn)) hi hji).1

/-- A slot that j does not write ends alike in both orders: i does to it the same before and after j. -/
theorem WritesNoSlotOf.sameSlot_both_orders (h : WritesNoSlotOf j i) (hi : exec i s = .next ti)
    (hij : exec j ti = .next tij) (hj : exec j s = .next tj) (hji : exec i tj = .next tji) {alg : Alg} {n : Nat}
    (hw : ¬ (alg = j.alg ∧ j.slotWritten = some n)) : SameSlot alg n tij tji := by
  have hafter : SameSlot alg n ti tji :=
    sameSlot_exec (fun alg => ((slotEffect_of_exec hj).nslot_eq alg).symm)
      (fun _ hn => h.sameSlot hj (slotRead_mem_slots hn)) hi hji ((slotEffect_of_exec hj).sameSlot hw)
  exact ((slotEffect_of_exec hij).sameSlot hw).symm.trans hafter

end

/-- Settles O57: each slot is written by at most one of the two, and what that one does depends on no slot the other writes. -/
theorem commandsToDifferentSlotsCommute : Obligations.CommandsToDifferentSlotsCommute := by
  intro i j s ti tij tj tji hapart hi hij hj hji
  have hji_apart : WritesNoSlotOf j i := fun halg => (hapart halg).2
  have hij_apart : WritesNoSlotOf i j := fun halg => (hapart halg.symm).1
  have hslot (alg : Alg) (n : Nat) : SameSlot alg n tij tji := by
    by_cases hw : alg = j.alg ∧ j.slotWritten = some n
    · obtain ⟨rfl, hn⟩ := hw
      exact (hij_apart.sameSlot_both_orders hj hji hi hij
        fun ⟨halg, hn'⟩ => hij_apart halg n hn' (slotWritten_mem_slots hn)).symm
    · exact hji_apart.sameSlot_both_orders hi hij hj hji hw
  have hinputs : tij.inputs = tji.inputs := by
    rw [(slotEffect_of_exec hij).inputs_eq, (slotEffect_of_exec hi).inputs_eq, (slotEffect_of_exec hji).inputs_eq,
      (slotEffect_of_exec hj).inputs_eq]
  exact ⟨List.ext_getElem? (hslot .sha256), List.ext_getElem? (hslot .md5), hinputs,
    hji_apart.rsp_eq hi hj hji, (hij_apart.rsp_eq hj hi hij).symm⟩

end Sys2Proof.Machine

/-! PROOFS of 30_encoding: the decoder and the encoder are inverse (R88, R89, R90), the opcode map is the decoder's (R89), the lengths
of the responses (R94), and the pseudo-instruction hexof (R93, R219). -/

namespace Sys2Proof

/-! ## What decodes (R88) -/

/-- The command has operation `op` and algorithm `alg`, and none of the causes of ILLEGAL_COMMAND (R253). -/
structure Command.LegalAs (c : Command) (op : Op) (alg : Alg) : Prop where
  op_eq : opField c.word = op.code
  alg_eq : algField c.word = alg.bit
  rsv0_eq : rsv0Field c.word = 0
  rsv1_eq : rsv1Field c.word = 0
  src_eq : op ≠ .copy → srcField c.word = 0
  payload_eq : op ≠ .update → c.payload = []

/-- The instruction of operation `op` and algorithm `alg` with the operands the command carries. -/
def Command.instrAs (c : Command) (op : Op) (alg : Alg) : Instr :=
  instrOf op alg (slotField c.word).toNat (srcField c.word).toNat c.payload

theorem Command.LegalAs.decode_eq {c : Command} {op : Op} {alg : Alg} (h : c.LegalAs op alg) :
    decode c = .instr (c.instrAs op alg) := by
  have hrsv : ¬ (rsv0Field c.word ≠ 0 ∨ rsv1Field c.word ≠ 0) := by simp [h.rsv0_eq, h.rsv1_eq]
  have hsrc : ¬ (op ≠ .copy ∧ srcField c.word ≠ 0) := fun ⟨hop, hne⟩ => hne (h.src_eq hop)
  have hpayload : ¬ (op ≠ .update ∧ c.payload ≠ []) := fun ⟨hop, hne⟩ => hne (h.payload_eq hop)
  simp only [decode, h.op_eq, ofCode_code, if_neg hrsv, if_neg hsrc, if_neg hpayload, h.alg_eq, ofBit_bit,
    Command.instrAs]

/-- The decoder answers an instruction exactly on the legal commands. -/
theorem decode_eq_instr_iff {c : Command} {i : Instr} :
    decode c = .instr i ↔ ∃ op alg, c.LegalAs op alg ∧ i = c.instrAs op alg := by
  constructor
  · intro h
    unfold decode at h
    split at h
    case h_1 => cases h
    case h_2 op hop =>
      split_ifs at h with hrsv hsrc hpayload
      cases h
      push Not at hrsv hsrc hpayload
      exact ⟨op, _, ⟨ofCode_eq_some hop, (bit_ofBit _).symm, hrsv.1, hrsv.2, hsrc, hpayload⟩, rfl⟩
  · rintro ⟨op, alg, hlegal, rfl⟩
    exact hlegal.decode_eq

/-- A command is legal as at most one operation and algorithm. -/
theorem Command.LegalAs.unique {c : Command} {op op' : Op} {alg alg' : Alg} (h : c.LegalAs op alg)
    (h' : c.LegalAs op' alg') : op = op' ∧ alg = alg' := by
  constructor
  · have hcode : op.code = op'.code := h.op_eq.symm.trans h'.op_eq
    simpa [ofCode_code] using congrArg Op.ofCode hcode
  · have hbit : alg.bit = alg'.bit := h.alg_eq.symm.trans h'.alg_eq
    simpa [ofBit_bit] using congrArg Alg.ofBit hbit

/-! ## Encoding and decoding are inverse (R89, R90) -/

/-- The command of operation `op` and algorithm `alg` decodes to their instruction: SRC only for COPY, a payload only for UPDATE. -/
theorem decode_commandWord {op : Op} {alg : Alg} {slot src : Nat} {p : List Byte} (hslot : slot < 256) (hsrc : src < 256)
    (hsrc0 : op ≠ .copy → src = 0) (hp : op ≠ .update → p = []) :
    decode ⟨commandWord op alg slot src, p⟩ = .instr (instrOf op alg slot src p) := by
  have hlegal : Command.LegalAs ⟨commandWord op alg slot src, p⟩ op alg :=
    ⟨opField_pack .., algField_pack .., rsv0Field_pack .., rsv1Field_pack ..,
      fun hop => by rw [commandWord, srcField_pack, hsrc0 hop]; rfl, hp⟩
  rw [hlegal.decode_eq, Command.instrAs, commandWord, slotField_pack, srcField_pack,
    BitVec.toNat_ofNat, BitVec.toNat_ofNat, Nat.mod_eq_of_lt hslot, Nat.mod_eq_of_lt hsrc]

theorem encode_instrOf {op : Op} (alg : Alg) (slot : Nat) {src : Nat} {p : List Byte} (hsrc0 : op ≠ .copy → src = 0)
    (hp : op ≠ .update → p = []) : encode (instrOf op alg slot src p) = ⟨commandWord op alg slot src, p⟩ := by
  cases op with
  | init | digest | hexdigest =>
    obtain rfl := hsrc0 (by decide)
    obtain rfl := hp (by decide)
    cases alg <;> rfl
  | update =>
    obtain rfl := hsrc0 (by decide)
    cases alg <;> rfl
  | copy =>
    obtain rfl := hp (by decide)
    cases alg <;> rfl

theorem wf_instrOf (op : Op) (alg : Alg) {slot src : Nat} (p : List Byte) (hslot : slot < 256) (hsrc : src < 256) :
    (instrOf op alg slot src p).wf = true := by
  cases op <;> cases alg <;> simp [instrOf, Instr.wf, slotFits, hslot, hsrc]

/-- The word of a legal command is the one the encoder builds from its operands. -/
theorem Command.LegalAs.word_eq {c : Command} {op : Op} {alg : Alg} (h : c.LegalAs op alg) :
    commandWord op alg (slotField c.word).toNat (srcField c.word).toNat = c.word := by
  simp only [commandWord, BitVec.ofNat_toNat, BitVec.setWidth_eq, ← h.op_eq, ← h.alg_eq, ← h.rsv0_eq]
  conv_rhs => rw [← pack_fields c.word, h.rsv1_eq]

theorem Command.LegalAs.encode_instrAs {c : Command} {op : Op} {alg : Alg} (h : c.LegalAs op alg) :
    encode (c.instrAs op alg) = c := by
  have hsrc0 : op ≠ .copy → (srcField c.word).toNat = 0 := fun hop => by rw [h.src_eq hop]; rfl
  rw [Command.instrAs, encode_instrOf alg _ hsrc0 h.payload_eq, h.word_eq]

/-- Settles O1: each encoding is a command word of the instruction's operation, with SRC on COPY and a payload on UPDATE only. -/
theorem decodeOfEncode : Obligations.DecodeOfEncode := by
  intro i hwf
  cases i with
  | sha256Init | md5Init | sha256Digest | md5Digest | sha256Hexdigest | md5Hexdigest =>
    exact decode_commandWord (of_decide_eq_true hwf) (by decide) (fun _ => rfl) (fun _ => rfl)
  | sha256Update | md5Update =>
    exact decode_commandWord (of_decide_eq_true hwf) (by decide) (fun _ => rfl) (fun h => absurd rfl h)
  | sha256Copy | md5Copy =>
    obtain ⟨hdst, hsrc⟩ := Bool.and_eq_true_iff.mp hwf
    exact decode_commandWord (of_decide_eq_true hdst) (of_decide_eq_true hsrc) (fun h => absurd rfl h) (fun _ => rfl)

/-- Settles O2: a command that decodes is legal, and a legal command is the encoding of what it decodes to. -/
theorem encodeOfDecode : Obligations.EncodeOfDecode := by
  intro c i h
  obtain ⟨op, alg, hlegal, rfl⟩ := decode_eq_instr_iff.mp h
  exact ⟨hlegal.encode_instrAs, wf_instrOf op alg _ (BitVec.isLt _) (BitVec.isLt _)⟩

/-! ## The opcode map (R89) -/

/-- The row of the opcode map for an operation and an algorithm. -/
def rowOf (op : Op) (alg : Alg) : OpcodeRow where
  mnemonic := (instrOf op alg 0 0 []).mnemonic
  pattern := commandWord op alg 0 0
  mask := if op = .copy then 0xFF0000FF else 0xFFFF00FF
  takesPayload := op = .update

theorem opcodeTable_eq :
    opcodeTable = [Op.init, .update, .digest, .hexdigest, .copy].flatMap fun op => [rowOf op .sha256, rowOf op .md5] := by
  decide

theorem mem_opcodeTable_iff {row : OpcodeRow} : row ∈ opcodeTable ↔ ∃ op alg, row = rowOf op alg := by
  rw [opcodeTable_eq]
  constructor
  · simp only [List.mem_flatMap, List.mem_pair]
    rintro ⟨op, -, h | h⟩ <;> exact ⟨_, _, h⟩
  · rintro ⟨op, alg, rfl⟩
    exact List.mem_flatMap.mpr ⟨op, by cases op <;> decide, by cases alg <;> simp⟩

theorem mnemonic_instrOf (op : Op) (alg : Alg) (slot src : Nat) (p : List Byte) :
    (instrOf op alg slot src p).mnemonic = (rowOf op alg).mnemonic := by
  cases op <;> cases alg <;> rfl

theorem packFields_inj {a b c a' b' c' : BitVec 8} {z z' : BitVec 3} {g g' : BitVec 1} {o o' : BitVec 4} :
    packFields a b c z g o = packFields a' b' c' z' g' o' ↔ a = a' ∧ b = b' ∧ c = c' ∧ z = z' ∧ g = g' ∧ o = o' := by
  constructor
  · intro h
    exact ⟨by simpa only [rsv1Field_pack] using congrArg rsv1Field h,
      by simpa only [srcField_pack] using congrArg srcField h,
      by simpa only [slotField_pack] using congrArg slotField h,
      by simpa only [rsv0Field_pack] using congrArg rsv0Field h,
      by simpa only [algField_pack] using congrArg algField h,
      by simpa only [opField_pack] using congrArg opField h⟩
  · rintro ⟨rfl, rfl, rfl, rfl, rfl, rfl⟩
    rfl

/-- A mask clears SLOT, and SRC on COPY, and keeps every other field. -/
theorem rowOf_mask (op : Op) (alg : Alg) :
    (rowOf op alg).mask = packFields (.allOnes 8) (if op = .copy then 0 else .allOnes 8) 0 (.allOnes 3) (.allOnes 1)
      (.allOnes 4) := by
  cases op <;> cases alg <;> decide

/-- A word matches a row exactly when every field the row fixes has the row's value. -/
theorem and_mask_eq_pattern_iff {w : BitVec 32} {op : Op} {alg : Alg} :
    w &&& (rowOf op alg).mask = (rowOf op alg).pattern ↔
      rsv1Field w = 0 ∧ (op ≠ .copy → srcField w = 0) ∧ rsv0Field w = 0 ∧ algField w = alg.bit ∧ opField w = op.code := by
  conv_lhs => rw [← pack_fields w, rowOf_mask, Laws.RowMatch.pack_and, rowOf, commandWord, packFields_inj]
  by_cases hop : op = .copy
  · simp only [if_pos hop, BitVec.and_allOnes]
    simp [hop]
  · simp only [if_neg hop, BitVec.and_allOnes]
    simp [hop]

theorem legalAs_iff_row {c : Command} {op : Op} {alg : Alg} :
    c.LegalAs op alg ↔ c.word &&& (rowOf op alg).mask = (rowOf op alg).pattern ∧
      ((rowOf op alg).takesPayload = true ∨ c.payload = []) := by
  have hpayload : ((rowOf op alg).takesPayload = true ∨ c.payload = []) ↔ (op ≠ .update → c.payload = []) := by
    rw [rowOf, decide_eq_true_iff, or_iff_not_imp_left]
  rw [and_mask_eq_pattern_iff, hpayload]
  constructor
  · rintro ⟨hop, halg, hrsv0, hrsv1, hsrc, hp⟩
    exact ⟨⟨hrsv1, hsrc, hrsv0, halg, hop⟩, hp⟩
  · rintro ⟨⟨hrsv1, hsrc, hrsv0, halg, hop⟩, hp⟩
    exact ⟨hop, halg, hrsv0, hrsv1, hsrc, hp⟩

theorem decodes_to_mnemonic_iff_row {c : Command} {name : String} :
    (∃ i, decode c = .instr i ∧ i.mnemonic = name) ↔
      ∃ row ∈ opcodeTable, row.mnemonic = name ∧ c.word &&& row.mask = row.pattern ∧
        (row.takesPayload = true ∨ c.payload = []) := by
  constructor
  · rintro ⟨i, h, rfl⟩
    obtain ⟨op, alg, hlegal, rfl⟩ := decode_eq_instr_iff.mp h
    exact ⟨rowOf op alg, mem_opcodeTable_iff.mpr ⟨op, alg, rfl⟩, (mnemonic_instrOf ..).symm, legalAs_iff_row.mp hlegal⟩
  · rintro ⟨row, hmem, rfl, hrow⟩
    obtain ⟨op, alg, rfl⟩ := mem_opcodeTable_iff.mp hmem
    exact ⟨_, (legalAs_iff_row.mpr hrow).decode_eq, mnemonic_instrOf ..⟩

theorem row_eq_of_hits {w : BitVec 32} {row row' : OpcodeRow} (hmem : row ∈ opcodeTable) (hmem' : row' ∈ opcodeTable)
    (h : row.hits w = true) (h' : row'.hits w = true) : row = row' := by
  obtain ⟨op, alg, rfl⟩ := mem_opcodeTable_iff.mp hmem
  obtain ⟨op', alg', rfl⟩ := mem_opcodeTable_iff.mp hmem'
  have hlegal : Command.LegalAs ⟨w, []⟩ op alg := legalAs_iff_row.mpr ⟨beq_iff_eq.mp h, .inr rfl⟩
  have hlegal' : Command.LegalAs ⟨w, []⟩ op' alg' := legalAs_iff_row.mpr ⟨beq_iff_eq.mp h', .inr rfl⟩
  obtain ⟨rfl, rfl⟩ := hlegal.unique hlegal'
  rfl

theorem at_most_one_row_hits (w : BitVec 32) : (opcodeTable.filter fun row => row.hits w).length ≤ 1 := by
  have hnodup : (opcodeTable.filter fun row => row.hits w).Nodup := List.Nodup.filter _ (by decide)
  rw [← List.toFinset_card_of_nodup hnodup, Finset.card_le_one]
  simp only [List.mem_toFinset, List.mem_filter]
  intro row ⟨hmem, h⟩ row' ⟨hmem', h'⟩
  exact row_eq_of_hits hmem hmem' h h'

theorem slot_instrOf (op : Op) (alg : Alg) (slot src : Nat) (p : List Byte) : (instrOf op alg slot src p).slot = slot := by
  cases op <;> cases alg <;> rfl

theorem eq_of_source_instrOf {op : Op} {alg : Alg} {slot src r : Nat} {p : List Byte}
    (h : (instrOf op alg slot src p).source = some r) : r = src := by
  cases op <;> cases alg <;> cases h <;> rfl

/-- Settles O3: the rows are those of the ten operations and algorithms, and a row with its payload condition says what makes a
command legal as them. -/
theorem opcodeMapExact : Obligations.OpcodeMapExact := by
  refine ⟨fun _ _ => decodes_to_mnemonic_iff_row, at_most_one_row_hits, fun c i h => ?_⟩
  obtain ⟨op, alg, -, rfl⟩ := decode_eq_instr_iff.mp h
  exact ⟨slot_instrOf .., fun _ hr => eq_of_source_instrOf hr⟩

/-- Settles O4: each worked word is the encoding of its command. -/
theorem workedEncodingsDecode : Obligations.WorkedEncodingsDecode :=
  ⟨decodeOfEncode (.sha256Init 0) rfl, decodeOfEncode (.md5Init 1) rfl, decodeOfEncode (.sha256Update 0 [0x61]) rfl,
    decodeOfEncode (.sha256Hexdigest 0) rfl, decodeOfEncode (.md5Hexdigest 2) rfl, decodeOfEncode (.sha256Copy 1 0) rfl,
    decodeOfEncode (.md5Copy 2 1) rfl⟩

end Sys2Proof

namespace Sys2Proof.Machine

/-! ## The lengths of responses (R94) -/

/-- A success answers status 0x00 with the data length of its instruction. -/
theorem Succeeds.rsp_length {s t : State} {i : Instr} (h : Succeeds s t i) :
    ∃ d, t.rsp = some ⟨0x00, d⟩ ∧ d.length = i.answerLength := by
  cases i with
  | sha256Init | md5Init =>
    obtain ⟨-, rfl⟩ := h
    exact ⟨_, rfl, rfl⟩
  | sha256Copy | md5Copy =>
    obtain ⟨-, c, -, rfl⟩ := h
    exact ⟨_, rfl, rfl⟩
  | sha256Update | md5Update =>
    obtain ⟨c, -, rfl⟩ := h
    exact ⟨_, rfl, rfl⟩
  | sha256Digest | md5Digest | sha256Hexdigest | md5Hexdigest =>
    obtain ⟨c, -, rfl⟩ := h
    exact ⟨_, rfl, by simp [Instr.answerLength]⟩

/-- Settles O43: a success answers its instruction's data, a failure none. -/
theorem responseLengths : Obligations.ResponseLengths := by
  intro i s t h
  rcases exec_inversion h with hs | ⟨e, he, rfl⟩
  · obtain ⟨d, hrsp, hlen⟩ := hs.rsp_length
    exact ⟨_, hrsp, by simpa using hlen⟩
  · exact ⟨_, rfl, (if_neg he.byte_ne_zero).symm⟩

/-! ## The digest of a stream in pieces (R203, R219) -/

theorem zeroFill_congr {n k : Nat} (h : n % 64 = k % 64) : zeroFill n = zeroFill k := by
  rw [zeroFill, zeroFill, h]

/-- Padding only the bytes left after the complete blocks gives the blocks that follow them in the padded stream. -/
theorem blocks_padTail (lengthField : Count → List Byte) (m : List Byte) (cnt : Count) :
    blocks (padTail lengthField m cnt) = blocks m ++ blocks (padTail lengthField (leftover m) cnt) := by
  have hfill : zeroFill (m.length + 1) = zeroFill ((leftover m).length + 1) :=
    zeroFill_congr (by rw [leftover_length]; omega)
  simp only [padTail, List.append_assoc, List.length_append, List.length_singleton, hfill]
  exact blocks_append m _

/-- Finalizing a context that holds a stream folds the compression over the blocks of the whole padded stream. -/
theorem HoldsStream.foldl_padTail {SV : Type} {iv : SV} {compress : SV → Block → SV} {c : Ctx SV} {m : List Byte}
    (h : HoldsStream iv compress c m) (lengthField : Count → List Byte) :
    (blocks (padTail lengthField c.buf c.cnt)).foldl compress c.sv =
      (blocks (padTail lengthField m (BitVec.ofNat 64 m.length))).foldl compress iv := by
  obtain ⟨hsv, hbuf, hcnt⟩ := h
  rw [hsv, hbuf, hcnt, blocks_padTail lengthField m, List.foldl_append]

theorem HoldsStream.finalizeSha_eq {c : Ctx ShaVec} {m : List Byte} (h : HoldsStream ivSha sha256Compress c m) :
    finalizeSha c = sha256Stream m :=
  congrArg sha256Out (h.foldl_padTail bytesBE64)

theorem HoldsStream.finalizeMd5_eq {c : Ctx Md5Vec} {m : List Byte} (h : HoldsStream ivMd5 md5Compress c m) :
    finalizeMd5 c = md5Stream m :=
  congrArg md5Out (h.foldl_padTail bytesLE64)

/-! ## Runs of commands that succeed (R73) -/

/-- An instruction whose slots allow its effect has it: the converse of `exec_inversion` for success. -/
theorem Succeeds.exec_eq {s t : State} {i : Instr} (h : Succeeds s t i) : exec i s = .next t := by
  cases i with
  | sha256Init => exact finishSha_eq_next.mpr (.inl ⟨_, initSlot_eq_ok.mpr ⟨h.1, rfl⟩, h.2⟩)
  | md5Init => exact finishMd5_eq_next.mpr (.inl ⟨_, initSlot_eq_ok.mpr ⟨h.1, rfl⟩, h.2⟩)
  | sha256Update =>
    obtain ⟨c, hc, ht⟩ := h
    exact finishSha_eq_next.mpr (.inl ⟨_, updateSlot_eq_ok.mpr ⟨c, hc, rfl⟩, ht⟩)
  | md5Update =>
    obtain ⟨c, hc, ht⟩ := h
    exact finishMd5_eq_next.mpr (.inl ⟨_, updateSlot_eq_ok.mpr ⟨c, hc, rfl⟩, ht⟩)
  | sha256Digest | md5Digest =>
    obtain ⟨c, hc, ht⟩ := h
    exact answer_eq_next.mpr (.inl ⟨_, digestSlot_eq_ok.mpr ⟨c, hc, rfl⟩, ht⟩)
  | sha256Hexdigest | md5Hexdigest =>
    obtain ⟨c, hc, ht⟩ := h
    exact answer_eq_next.mpr (.inl ⟨_, hexdigestSlot_eq_ok.mpr ⟨c, hc, rfl⟩, ht⟩)
  | sha256Copy =>
    obtain ⟨hd, c, hc, ht⟩ := h
    exact finishSha_eq_next.mpr (.inl ⟨_, copySlot_eq_ok.mpr ⟨hd, c, hc, rfl⟩, ht⟩)
  | md5Copy =>
    obtain ⟨hd, c, hc, ht⟩ := h
    exact finishMd5_eq_next.mpr (.inl ⟨_, copySlot_eq_ok.mpr ⟨hd, c, hc, rfl⟩, ht⟩)

/-- A run whose first instruction succeeds goes on from the state that success leaves. -/
theorem execAll_cons_of_succeeds {s t u : State} {i : Instr} {is : List Instr} (h : Succeeds s t i)
    (hrest : execAll is t = some u) : execAll (i :: is) s = some u := by
  rw [execAll, h.exec_eq]
  exact hrest

section
variable {s : State} {slot : Nat} (m : List Byte)

/-- INIT, UPDATE and HEXDIGEST of an existing SHA-256 slot: it holds the empty stream, then the payload, whose digest is answered. -/
theorem execAll_sha256_oneShot (h : slot < s.ctxSha.length) :
    ∃ t, execAll [.sha256Init slot, .sha256Update slot m, .sha256Hexdigest slot] s = some t ∧
      t.rsp = some ⟨0x00, hex (sha256Stream m)⟩ := by
  have hdigest : finalizeSha (absorb sha256Compress (freshCtx ivSha) m) = sha256Stream m :=
    (holdsStream_freshCtx.absorb m).finalizeSha_eq
  rw [← hdigest]
  exact ⟨_, execAll_cons_of_succeeds ⟨h, rfl⟩
    (execAll_cons_of_succeeds ⟨_, List.getElem?_set_self h, rfl⟩
      (execAll_cons_of_succeeds ⟨_, List.getElem?_set_self (by rwa [List.length_set]), rfl⟩ rfl)), rfl⟩

/-- The same of an existing MD5 slot. -/
theorem execAll_md5_oneShot (h : slot < s.ctxMd5.length) :
    ∃ t, execAll [.md5Init slot, .md5Update slot m, .md5Hexdigest slot] s = some t ∧
      t.rsp = some ⟨0x00, hex (md5Stream m)⟩ := by
  have hdigest : finalizeMd5 (absorb md5Compress (freshCtx ivMd5) m) = md5Stream m :=
    (holdsStream_freshCtx.absorb m).finalizeMd5_eq
  rw [← hdigest]
  exact ⟨_, execAll_cons_of_succeeds ⟨h, rfl⟩
    (execAll_cons_of_succeeds ⟨_, List.getElem?_set_self h, rfl⟩
      (execAll_cons_of_succeeds ⟨_, List.getElem?_set_self (by rwa [List.length_set]), rfl⟩ rfl)), rfl⟩

end

/-- Settles O54: the expansion of hexof is INIT, UPDATE and HEXDIGEST of one slot. -/
theorem hexofIsOneShotDigest : Obligations.HexofIsOneShotDigest := by
  intro s slot data
  exact ⟨execAll_sha256_oneShot data.eval, execAll_md5_oneShot data.eval⟩

end Sys2Proof.Machine

/-! PROOFS of 40_sha256: Ch and Maj bit by bit (R102, R103), the message schedule (R109, R110), the compression's rounds (R111 to
R113), the padded tail (R115, R118) and the order of the digest's bytes (R117), each with its MD5 counterpart (R154, R164, R166)
where the statement covers both. -/

namespace Sys2Proof.Machine

/-! ## Logic functions (R102 to R107) -/

theorem ch_getLsbD (x y z : Word) (i : Nat) :
    (ch x y z).getLsbD i = if x.getLsbD i then y.getLsbD i else z.getLsbD i := by
  by_cases hi : i < 32
  · simp only [ch, BitVec.getLsbD_xor, BitVec.getLsbD_and, BitVec.getLsbD_not, hi]
    cases x.getLsbD i <;> simp
  · simp [BitVec.getLsbD_of_ge _ i (Nat.le_of_not_lt hi)]

/-- On three single bits, the exclusive or of the pairwise products is the majority. -/
theorem xor_pairs_eq_majority (a b c : Bool) :
    ((a && b) ^^ (a && c) ^^ (b && c)) = decide (2 ≤ a.toNat + b.toNat + c.toNat) := by
  revert a b c
  decide

theorem maj_getLsbD (x y z : Word) (i : Nat) :
    (maj x y z).getLsbD i = decide (2 ≤ (x.getLsbD i).toNat + (y.getLsbD i).toNat + (z.getLsbD i).toNat) := by
  rw [← xor_pairs_eq_majority]
  simp only [maj, BitVec.getLsbD_xor, BitVec.getLsbD_and]

/-- The two terms of F never have a bit in common, so their or is Ch's exclusive or (R154). -/
theorem bandF_eq_ch (x y z : Word) : bandF x y z = ch x y z := by
  refine BitVec.eq_of_getLsbD_eq fun i hi => ?_
  simp only [bandF, ch, BitVec.getLsbD_or, BitVec.getLsbD_xor, BitVec.getLsbD_and, BitVec.getLsbD_not, hi]
  cases x.getLsbD i <;> simp

/-- Settles O36, bit by bit. -/
theorem choiceAndMajorityBitwise : Obligations.ChoiceAndMajorityBitwise :=
  ⟨ch_getLsbD, maj_getLsbD, bandF_eq_ch⟩

theorem smallSigma0_eq_rotateRight (x : Word) :
    smallSigma0 x = x.rotateRight 7 ^^^ x.rotateRight 18 ^^^ x >>> 3 := by
  simp [smallSigma0, shr, rotr_eq_rotateRight]

theorem smallSigma1_eq_rotateRight (x : Word) :
    smallSigma1 x = x.rotateRight 17 ^^^ x.rotateRight 19 ^^^ x >>> 10 := by
  simp [smallSigma1, shr, rotr_eq_rotateRight]

theorem bigSigma0_eq_rotateRight (x : Word) :
    bigSigma0 x = x.rotateRight 2 ^^^ x.rotateRight 13 ^^^ x.rotateRight 22 := by
  simp [bigSigma0, rotr_eq_rotateRight]

theorem bigSigma1_eq_rotateRight (x : Word) :
    bigSigma1 x = x.rotateRight 6 ^^^ x.rotateRight 11 ^^^ x.rotateRight 25 := by
  simp [bigSigma1, rotr_eq_rotateRight]

/-! ## The message schedule (R109, R110) -/

theorem unpackBE_getElem (blk : Block) {j : Nat} (h : j < 16) :
    (unpackBE blk)[j] = be32 blk[4 * j] blk[4 * j + 1] blk[4 * j + 2] blk[4 * j + 3] := by
  simp [unpackBE]

section
variable (m : Vector Word 16)

/-- A further word leaves the earlier ones as they are. -/
theorem expandSchedule_succ_getElem_of_lt {n t : Nat} (h : t < 16 + n) :
    (expandSchedule m (n + 1))[t] = (expandSchedule m n)[t] :=
  Vector.getElem_push_lt h

/-- The new word is the recurrence's value at its index (R110). -/
theorem expandSchedule_succ_getElem_last (n : Nat) :
    (expandSchedule m (n + 1))[16 + n] =
      smallSigma1 (expandSchedule m n)[14 + n] + (expandSchedule m n)[9 + n] +
        smallSigma0 (expandSchedule m n)[1 + n] + (expandSchedule m n)[n] :=
  Vector.getElem_push_eq

/-- The first sixteen words are the block's own (R109). -/
theorem expandSchedule_getElem_of_lt {t : Nat} (ht : t < 16) (n : Nat) : (expandSchedule m n)[t] = m[t] := by
  induction n with
  | zero => rfl
  | succ n ih => rw [expandSchedule_succ_getElem_of_lt m (by omega), ih]

/-- Every later word meets the recurrence within the schedule it stands in. -/
theorem expandSchedule_recurrence {n t : Nat} (h16 : 16 ≤ t) (ht : t < 16 + n) :
    (expandSchedule m n)[t] =
      smallSigma1 (expandSchedule m n)[t - 2] + (expandSchedule m n)[t - 7] +
        smallSigma0 (expandSchedule m n)[t - 15] + (expandSchedule m n)[t - 16] := by
  induction n with
  | zero => omega
  | succ n ih =>
    have hprev (d : Nat) (hd : 0 < d) : t - d < 16 + n := by omega
    simp only [expandSchedule_succ_getElem_of_lt m (hprev _ (Nat.succ_pos _))]
    by_cases hlt : t < 16 + n
    · rw [expandSchedule_succ_getElem_of_lt m hlt, ih hlt]
    · obtain rfl : t = 16 + n := by omega
      have h2 : 16 + n - 2 = 14 + n := by omega
      have h7 : 16 + n - 7 = 9 + n := by omega
      have h15 : 16 + n - 15 = 1 + n := by omega
      have h0 : 16 + n - 16 = n := by omega
      simp only [expandSchedule_succ_getElem_last, h2, h7, h15, h0]

end

/-- Settles O32: the first sixteen words by R109, the others by the recurrence within the expanded schedule. -/
theorem scheduleRecurrence : Obligations.ScheduleRecurrence := by
  intro blk
  constructor
  · intro t ht
    exact (expandSchedule_getElem_of_lt _ ht 48).trans (unpackBE_getElem blk ht)
  · intro t h16 ht
    simp only [← smallSigma0_eq_rotateRight, ← smallSigma1_eq_rotateRight]
    exact expandSchedule_recurrence _ h16 ht

/-! ## The compression's rounds (R111 to R113) -/

/-- A sequence of working variables that takes every round from the loaded ones is the model's. -/
theorem shaRounds_eq_of_rounds {w : Vector Word 64} {x : Nat → ShaWork}
    (hround : ∀ (t : Nat) (_ : t < 64), x (t + 1) = shaRound kRom[t] w[t] (x t)) {n : Nat} (hn : n ≤ 64) :
    shaRounds w (x 0) n hn = x n := by
  induction n with
  | zero => rfl
  | succ n ih => rw [shaRounds, ih, hround n hn]

/-- Settles O33: the round equations are the model's rounds, so the sequence's 64th entry is what the compression adds. -/
theorem sha256CompressionRounds : Obligations.Sha256CompressionRounds := by
  intro v blk x hload hround
  simp only [← bigSigma0_eq_rotateRight, ← bigSigma1_eq_rotateRight] at hround
  rw [sha256Compress, shaLoad, ← hload, shaRounds_eq_of_rounds hround]
  rfl

/-! ## The padded tail (R115, R116, R118, R164, R165) -/

/-- The zero fill after 0 to 63 pending bytes and the marker ends the first block before its length field, or the second's when
the first has no room. -/
theorem zeroFill_succ_of_lt {n : Nat} (h : n < 64) : zeroFill (n + 1) = if n ≤ 55 then 55 - n else 119 - n := by
  rw [zeroFill]
  split <;> omega

section
variable {lengthField : Count → List Byte} {buf : List Byte} (cnt : Count)

theorem padTail_of_lt (h : buf.length < 64) :
    padTail lengthField buf cnt = buf ++ [0x80] ++
      List.replicate (if buf.length ≤ 55 then 55 - buf.length else 119 - buf.length) 0x00 ++ lengthField (cnt * 8) := by
  rw [padTail, List.length_append, List.length_singleton, zeroFill_succ_of_lt h]

/-- One block where the length field fits behind the marker, else two (R116, R165). -/
theorem padTail_length_of_lt (hfield : ∀ n, (lengthField n).length = 8) (h : buf.length < 64) :
    (padTail lengthField buf cnt).length = if buf.length ≤ 55 then 64 else 128 := by
  simp only [padTail_of_lt cnt h, List.length_append, List.length_singleton, List.length_replicate, hfield]
  split <;> omega

/-- The length field is 8 x CNT modulo 2^64, so 2^61 more bytes counted do not change it (R118, C7). -/
theorem padTail_add_two_pow_61 : padTail lengthField buf (cnt + BitVec.ofNat 64 (2 ^ 61)) = padTail lengthField buf cnt := by
  have hfield : (cnt + BitVec.ofNat 64 (2 ^ 61)) * 8 = cnt * 8 := by bv_omega
  simp only [padTail, hfield]

theorem cnt_mul_eight_toNat : (cnt * 8).toNat = cnt.toNat * 8 % 2 ^ 64 := BitVec.toNat_mul cnt 8

end

/-- Settles O38: the tail's shape once for both byte orders, then the digits of the length field. -/
theorem paddedTails : Obligations.PaddedTails := by
  intro buf cnt h
  refine ⟨?_, ?_, padTail_length_of_lt cnt bytesBE64_length h, padTail_length_of_lt cnt bytesLE64_length h⟩
  · rw [padSha, padTail_of_lt cnt h, bytesBE64_eq_digits, cnt_mul_eight_toNat]
  · rw [padMd5, padTail_of_lt cnt h, bytesLE64_eq_digits, cnt_mul_eight_toNat]

/-- Settles O39: finalization reads CNT in the padded tail only. -/
theorem lengthFieldReduced : Obligations.LengthFieldReduced := by
  constructor
  · intro c
    simp only [finalizeSha, padSha, padTail_add_two_pow_61]
  · intro c
    simp only [finalizeMd5, padMd5, padTail_add_two_pow_61]

/-! ## The digest's bytes (R117, R166) -/

/-- Byte k of a word is its base-256 digit k. -/
theorem word_extractByte_eq_digit (w : Word) (k : Nat) :
    w.extractLsb' (8 * k) 8 = BitVec.ofNat 8 (w.toNat / 256 ^ k) := by
  rw [BitVec.extractLsb', Nat.shiftRight_eq_div_pow, Nat.pow_mul]

theorem bytesLE32_eq_digits (w : Word) :
    bytesLE32 w = (List.range 4).map fun k => BitVec.ofNat 8 (w.toNat / 256 ^ k) := by
  simp only [← word_extractByte_eq_digit]
  rfl

theorem bytesBE32_eq_digits (w : Word) :
    bytesBE32 w = (List.range 4).map fun k => BitVec.ofNat 8 (w.toNat / 256 ^ (3 - k)) := by
  simp only [← word_extractByte_eq_digit]
  rfl

/-- Where every word gives four bytes, byte 4j+k of the whole is byte k of word j. -/
theorem flatMap_getElem?_of_word {f : Word → List Byte} (hf : ∀ w, (f w).length = 4) {ws : List Word} {j : Nat} {w : Word}
    (hw : ws[j]? = some w) {k : Nat} (hk : k < 4) : (ws.flatMap f)[4 * j + k]? = (f w)[k]? := by
  induction ws generalizing j with
  | nil => simp at hw
  | cons u us ih =>
    rw [List.flatMap_cons]
    cases j with
    | zero =>
      obtain rfl : u = w := by simpa using hw
      rw [Nat.mul_zero, Nat.zero_add, List.getElem?_append_left (by rw [hf]; exact hk)]
    | succ j =>
      rw [List.getElem?_append_right (by rw [hf]; omega), hf, ← ih hw]
      congr 1
      omega

theorem sha256Out_eq_flatMap (v : ShaVec) :
    sha256Out v = [v.h0, v.h1, v.h2, v.h3, v.h4, v.h5, v.h6, v.h7].flatMap bytesBE32 := rfl

theorem md5Out_eq_flatMap (v : Md5Vec) : md5Out v = [v.v0, v.v1, v.v2, v.v3].flatMap bytesLE32 := rfl

/-- Settles O42: the digest is the words' bytes in order, each word's bytes its base-256 digits. -/
theorem digestByteOrder : Obligations.DigestByteOrder := by
  constructor
  · refine fun v => ⟨rfl, fun j w hw k hk => ?_⟩
    rw [sha256Out_eq_flatMap, flatMap_getElem?_of_word bytesBE32_length hw hk, bytesBE32_eq_digits]
    simp [hk]
  · refine fun v => ⟨rfl, fun j w hw k hk => ?_⟩
    rw [md5Out_eq_flatMap, flatMap_getElem?_of_word bytesLE32_length hw hk, bytesLE32_eq_digits]
    simp [hk]

end Sys2Proof.Machine

/-! PROOFS of 41_md5: the schedules of the rounds by their formulas (R153, R158), the block's little-endian words (R159) and the
compression's rounds with the final addition (R160 to R162). -/

namespace Sys2Proof.Machine

/-! ## The schedules of the rounds (R153, R158) -/

theorem shRom_eq_shiftFormula (i : Fin 64) : shRom[i].val = shiftFormula i := by
  revert i
  decide

theorem midxRom_eq_midxFormula (i : Fin 64) : midxRom[i] = midxFormula i := by
  revert i
  decide

/-! ## The compression's rounds (R159 to R162) -/

theorem unpackLE_getElem (blk : Block) (j : Fin 16) :
    (unpackLE blk)[j] = le32 blk[4 * j.val] blk[4 * j.val + 1] blk[4 * j.val + 2] blk[4 * j.val + 3] := by
  simp [unpackLE]

/-- A round with the index and the rotation amount by their formulas and the message word taken from the block. -/
theorem md5Round_unpackLE (blk : Block) (i : Fin 64) (v : Md5Work) :
    md5Round (unpackLE blk) i v =
      let j := midxFormula i
      let word := le32 blk[4 * j.val] blk[4 * j.val + 1] blk[4 * j.val + 2] blk[4 * j.val + 3]
      ⟨v.d, v.b + (v.a + bandFn i v.b v.c v.d + tRom[i] + word).rotateLeft (shiftFormula i), v.b, v.c⟩ := by
  simp only [md5Round, midxRom_eq_midxFormula, unpackLE_getElem]
  rw [rotl_eq_rotateLeft _ shRom[i].isLt, shRom_eq_shiftFormula]

/-- A sequence of working variables that takes every round from its first entry is the model's. -/
theorem md5Rounds_eq_of_rounds {w : Vector Word 16} {x : Nat → Md5Work}
    (hround : ∀ i : Fin 64, x (i + 1) = md5Round w i (x i)) {n : Nat} (hn : n ≤ 64) :
    md5Rounds w (x 0) n hn = x n := by
  induction n with
  | zero => rfl
  | succ n ih => rw [md5Rounds, ih, ← hround]

/-- Settles O34: the round equations are the model's rounds, so the sequence's 64th entry is what the compression adds. -/
theorem md5CompressionRounds : Obligations.Md5CompressionRounds := by
  intro v blk x hload hround
  have hmodel (i : Fin 64) : x (i + 1) = md5Round (unpackLE blk) i (x i) :=
    (hround i i.isLt).trans (md5Round_unpackLE blk i (x i)).symm
  rw [md5Compress, md5Load, ← hload, md5Rounds_eq_of_rounds hmodel]
  rfl

end Sys2Proof.Machine

/-! PROOFS of 42_commands: a step and the instruction it runs (R200), the effect of each instruction where its slots allow it and
whole at the port (R206 to R215), chunking and the empty UPDATE (R202, R216), finalization (R203, R204, R218, R219), HEX (R205)
and the independence of a copy (R217). -/

namespace Sys2Proof.Machine

/-! ## The step (R200) -/

/-- Settles O6: the step takes the command from the port and runs what it decodes to. -/
theorem stepRunsDecodedInstruction : Obligations.StepRunsDecodedInstruction :=
  fun _ _ _ _ hin hd => step_of_instr hin hd

/-- Settles O8, by what is presented at the port: nothing, a reset, or a command that decodes or not. -/
theorem stepAlwaysCompletes : Obligations.StepAlwaysCompletes := by
  intro s
  match hin : s.inputs with
  | [] => exact ⟨_, step_of_nil hin⟩
  | .reset :: rest => exact ⟨_, step_of_reset hin⟩
  | .command c :: rest =>
    match hd : decode c with
    | .illegalCommand why => exact ⟨_, step_of_illegal hin hd⟩
    | .instr i =>
      rw [step_of_instr hin hd]
      exact exec_next i _

/-! ## Each instruction completes (R206 to R215) -/

/-- Settles O21: INIT succeeds on a slot that exists. -/
theorem initCompletes : Obligations.InitCompletes :=
  ⟨fun _ slot h => Succeeds.exec_eq (i := .sha256Init slot) ⟨h, rfl⟩,
    fun _ slot h => Succeeds.exec_eq (i := .md5Init slot) ⟨h, rfl⟩⟩

/-- Settles O22: UPDATE succeeds on a valid slot, and what it writes is ABSORB's context. -/
theorem updateCompletes : Obligations.UpdateCompletes :=
  ⟨fun _ slot data c hc => Succeeds.exec_eq (i := .sha256Update slot data) ⟨c, hc, rfl⟩,
    fun _ slot data c hc => Succeeds.exec_eq (i := .md5Update slot data) ⟨c, hc, rfl⟩⟩

/-- Settles O23: DIGEST succeeds on a valid slot, and what it answers is FINALIZE's. -/
theorem digestCompletes : Obligations.DigestCompletes :=
  ⟨fun _ slot c hc => Succeeds.exec_eq (i := .sha256Digest slot) ⟨c, hc, rfl⟩,
    fun _ slot c hc => Succeeds.exec_eq (i := .md5Digest slot) ⟨c, hc, rfl⟩⟩

/-- Settles O24: HEXDIGEST succeeds on a valid slot, and what it answers is HEX of FINALIZE's. -/
theorem hexdigestCompletes : Obligations.HexdigestCompletes :=
  ⟨fun _ slot c hc => Succeeds.exec_eq (i := .sha256Hexdigest slot) ⟨c, hc, rfl⟩,
    fun _ slot c hc => Succeeds.exec_eq (i := .md5Hexdigest slot) ⟨c, hc, rfl⟩⟩

/-- Settles O25: COPY succeeds from a valid source to a destination that exists. -/
theorem copyCompletes : Obligations.CopyCompletes :=
  ⟨fun _ dst src c hd hc => Succeeds.exec_eq (i := .sha256Copy dst src) ⟨hd, c, hc, rfl⟩,
    fun _ dst src c hd hc => Succeeds.exec_eq (i := .md5Copy dst src) ⟨hd, c, hc, rfl⟩⟩

/-! ## A command word at the port (R88, R253) -/

/-- What makes a command of operation `op` ILLEGAL_COMMAND, by its fields (R253). -/
def IllegalFields (op : Op) (rsv1 src : BitVec 8) (rsv0 : BitVec 3) (p : List Byte) : Prop :=
  rsv1 ≠ 0 ∨ rsv0 ≠ 0 ∨ (op ≠ .copy ∧ src ≠ 0) ∨ (op ≠ .update ∧ p ≠ [])

section
variable {op : Op} {alg : Alg} {rsv1 src slot : BitVec 8} {rsv0 : BitVec 3} {p : List Byte}

theorem decode_pack_of_illegal (h : IllegalFields op rsv1 src rsv0 p) :
    ∃ why, decode ⟨packFields rsv1 src slot rsv0 alg.bit op.code, p⟩ = .illegalCommand why := by
  simp only [decode_pack, ofCode_code]
  split_ifs with hrsv hsrc hp
  · exact ⟨_, rfl⟩
  · exact ⟨_, rfl⟩
  · exact ⟨_, rfl⟩
  · rcases h with h | h | h | h
    · exact absurd (.inr h) hrsv
    · exact absurd (.inl h) hrsv
    · exact absurd h hsrc
    · exact absurd h hp

theorem decode_pack_of_legal (h : ¬ IllegalFields op rsv1 src rsv0 p) :
    decode ⟨packFields rsv1 src slot rsv0 alg.bit op.code, p⟩ = .instr (instrOf op alg slot.toNat src.toNat p) := by
  obtain ⟨hrsv1, hrsv0, hsrc, hp⟩ : ¬ rsv1 ≠ 0 ∧ ¬ rsv0 ≠ 0 ∧ ¬ (op ≠ .copy ∧ src ≠ 0) ∧ ¬ (op ≠ .update ∧ p ≠ []) := by
    simpa only [IllegalFields, not_or] using h
  simp only [decode_pack, ofCode_code, ofBit_bit, if_neg (not_or.mpr ⟨hrsv0, hrsv1⟩), if_neg hsrc, if_neg hp]

/-- A command word made of its fields, at the head of the port: it fails to decode, or its instruction runs. -/
theorem step_pack {s t u : State} {rest : List PortInput} {illegal : Prop} [Decidable illegal]
    (hillegal : illegal ↔ IllegalFields op rsv1 src rsv0 p)
    (hexec : exec (instrOf op alg slot.toNat src.toNat p) { s with inputs := rest } = .next t) (hu : t = u) :
    step { s with inputs := .command ⟨packFields rsv1 src slot rsv0 alg.bit op.code, p⟩ :: rest } =
      .next (if illegal then { s with inputs := rest, rsp := some ⟨0x02, []⟩ } else u) := by
  subst hu
  split_ifs with h
  · obtain ⟨why, hd⟩ := decode_pack_of_illegal (alg := alg) (slot := slot) (hillegal.mp h)
    exact step_of_illegal (s := { s with inputs := _ }) rfl hd
  · exact (step_of_instr (s := { s with inputs := _ }) rfl (decode_pack_of_legal (mt hillegal.mpr h))).trans hexec

end

/-! ## What a command comes to, by the slot it checks (R254, R255, R257) -/

/-- The state after a command that reads a slot with contents `x`: BAD_SLOT where there is no slot, NO_CONTEXT where it is invalid,
else the command's effect on the context. -/
def State.afterRead {SV : Type} (s : State) (x : Option (Option (Ctx SV))) (effect : Ctx SV → State) : State :=
  match x with
  | none => s.fail .badSlot
  | some none => s.fail .noContext
  | some (some c) => effect c

section
variable {SV : Type} (s : State)

theorem answer_readSlot (f : SlotFile SV) (n : Nat) (g : Ctx SV → List Byte) :
    s.answer ((readSlot f n).map g) = .next (s.afterRead f[n]? fun c => { s with rsp := some ⟨0x00, g c⟩ }) := by
  unfold readSlot
  rcases f[n]? with _ | _ | c <;> rfl

theorem finishSha_readSlot (f : SlotFile SV) (n : Nat) (g : Ctx SV → SlotFile ShaVec) :
    s.finishSha ((readSlot f n).map g) =
      .next (s.afterRead f[n]? fun c => { s with ctxSha := g c, rsp := some ⟨0x00, []⟩ }) := by
  unfold readSlot
  rcases f[n]? with _ | _ | c <;> rfl

theorem finishMd5_readSlot (f : SlotFile SV) (n : Nat) (g : Ctx SV → SlotFile Md5Vec) :
    s.finishMd5 ((readSlot f n).map g) =
      .next (s.afterRead f[n]? fun c => { s with ctxMd5 := g c, rsp := some ⟨0x00, []⟩ }) := by
  unfold readSlot
  rcases f[n]? with _ | _ | c <;> rfl

theorem exec_sha256Init (n : Nat) :
    exec (.sha256Init n) s = .next (if s.ctxSha.length ≤ n then s.fail .badSlot
      else { s with ctxSha := s.ctxSha.set n (some (freshCtx ivSha)), rsp := some ⟨0x00, []⟩ }) := by
  split_ifs with h
  · exact finishSha_eq_next.mpr (.inr ⟨_, initSlot_eq_error.mpr ⟨h, rfl⟩, rfl⟩)
  · exact Succeeds.exec_eq (i := .sha256Init n) ⟨Nat.lt_of_not_le h, rfl⟩

theorem exec_md5Init (n : Nat) :
    exec (.md5Init n) s = .next (if s.ctxMd5.length ≤ n then s.fail .badSlot
      else { s with ctxMd5 := s.ctxMd5.set n (some (freshCtx ivMd5)), rsp := some ⟨0x00, []⟩ }) := by
  split_ifs with h
  · exact finishMd5_eq_next.mpr (.inr ⟨_, initSlot_eq_error.mpr ⟨h, rfl⟩, rfl⟩)
  · exact Succeeds.exec_eq (i := .md5Init n) ⟨Nat.lt_of_not_le h, rfl⟩

theorem copySlot_of_le {f : SlotFile SV} {d : Nat} (h : f.length ≤ d) (r : Nat) : copySlot f d r = .error .badSlot :=
  copySlot_eq_error.mpr (.inl ⟨h, rfl⟩)

theorem copySlot_of_lt {f : SlotFile SV} {d : Nat} (h : d < f.length) (r : Nat) :
    copySlot f d r = (readSlot f r).map fun c => writeSlot f d c := by
  have hcheck : checkSlot f d = .ok () := checkSlot_eq_ok.mpr h
  rw [copySlot, hcheck]

theorem exec_sha256Copy (d r : Nat) :
    exec (.sha256Copy d r) s = .next (if s.ctxSha.length ≤ d then s.fail .badSlot
      else s.afterRead s.ctxSha[r]? fun c => { s with ctxSha := s.ctxSha.set d (some c), rsp := some ⟨0x00, []⟩ }) := by
  rw [exec, execSha256Copy]
  split_ifs with h
  · rw [copySlot_of_le h]
    rfl
  · rw [copySlot_of_lt (Nat.lt_of_not_le h)]
    exact finishSha_readSlot s s.ctxSha r _

theorem exec_md5Copy (d r : Nat) :
    exec (.md5Copy d r) s = .next (if s.ctxMd5.length ≤ d then s.fail .badSlot
      else s.afterRead s.ctxMd5[r]? fun c => { s with ctxMd5 := s.ctxMd5.set d (some c), rsp := some ⟨0x00, []⟩ }) := by
  rw [exec, execMd5Copy]
  split_ifs with h
  · rw [copySlot_of_le h]
    rfl
  · rw [copySlot_of_lt (Nat.lt_of_not_le h)]
    exact finishMd5_readSlot s s.ctxMd5 r _

end

/-! ## Each instruction at the port (R206 to R215) -/

/-- Settles O16: INIT's word decodes unless a field is illegal, and INIT then checks only that its slot exists. -/
theorem initAtPort : Obligations.InitAtPort := by
  constructor
  · intro s rest rsv1 src slot rsv0 p
    exact step_pack (op := .init) (alg := .sha256) (by simp [IllegalFields]) (exec_sha256Init _ _) rfl
  · intro s rest rsv1 src slot rsv0 p
    exact step_pack (op := .init) (alg := .md5) (by simp [IllegalFields]) (exec_md5Init _ _) rfl

/-- Settles O17: UPDATE's word may carry a payload, and UPDATE then absorbs it into the slot it reads. -/
theorem updateAtPort : Obligations.UpdateAtPort := by
  constructor
  · intro s rest rsv1 src slot rsv0 p
    refine step_pack (op := .update) (alg := .sha256) (by simp [IllegalFields]) (finishSha_readSlot _ s.ctxSha _ _) ?_
    rcases s.ctxSha[slot.toNat]? with _ | _ | c <;> rfl
  · intro s rest rsv1 src slot rsv0 p
    refine step_pack (op := .update) (alg := .md5) (by simp [IllegalFields]) (finishMd5_readSlot _ s.ctxMd5 _ _) ?_
    rcases s.ctxMd5[slot.toNat]? with _ | _ | c <;> rfl

/-- Settles O18: DIGEST's word decodes unless a field is illegal, and DIGEST then answers from the slot it reads. -/
theorem digestAtPort : Obligations.DigestAtPort := by
  constructor
  · intro s rest rsv1 src slot rsv0 p
    refine step_pack (op := .digest) (alg := .sha256) (by simp [IllegalFields]) (answer_readSlot _ s.ctxSha _ _) ?_
    rcases s.ctxSha[slot.toNat]? with _ | _ | c <;> rfl
  · intro s rest rsv1 src slot rsv0 p
    refine step_pack (op := .digest) (alg := .md5) (by simp [IllegalFields]) (answer_readSlot _ s.ctxMd5 _ _) ?_
    rcases s.ctxMd5[slot.toNat]? with _ | _ | c <;> rfl

/-- Settles O19: as DIGEST, with HEX of the answer. -/
theorem hexdigestAtPort : Obligations.HexdigestAtPort := by
  constructor
  · intro s rest rsv1 src slot rsv0 p
    refine step_pack (op := .hexdigest) (alg := .sha256) (by simp [IllegalFields]) (answer_readSlot _ s.ctxSha _ _) ?_
    rcases s.ctxSha[slot.toNat]? with _ | _ | c <;> rfl
  · intro s rest rsv1 src slot rsv0 p
    refine step_pack (op := .hexdigest) (alg := .md5) (by simp [IllegalFields]) (answer_readSlot _ s.ctxMd5 _ _) ?_
    rcases s.ctxMd5[slot.toNat]? with _ | _ | c <;> rfl

/-- Settles O20: COPY's word may carry a source, and COPY checks its destination before it reads that source. -/
theorem copyAtPort : Obligations.CopyAtPort := by
  constructor
  · intro s rest rsv1 src slot rsv0 p
    refine step_pack (op := .copy) (alg := .sha256) (by simp [IllegalFields]) (exec_sha256Copy _ _ _) ?_
    rcases s.ctxSha[src.toNat]? with _ | _ | c <;> rfl
  · intro s rest rsv1 src slot rsv0 p
    refine step_pack (op := .copy) (alg := .md5) (by simp [IllegalFields]) (exec_md5Copy _ _ _) ?_
    rcases s.ctxMd5[src.toNat]? with _ | _ | c <;> rfl

/-! ## Chunking (R202) and the empty UPDATE (R216) -/

section
variable {SV : Type} (compress : SV → Block → SV)

/-- ABSORB of a, then of b: what a left pending is the head of what b completes (R202). -/
theorem absorb_absorb (c : Ctx SV) (a b : List Byte) :
    absorb compress (absorb compress c a) b = absorb compress c (a ++ b) := by
  simp only [absorb, ← List.append_assoc c.buf a b, blocks_append (c.buf ++ a) b, leftover_append (c.buf ++ a) b,
    List.foldl_append, List.length_append, BitVec.ofNat_add, BitVec.add_assoc]

/-- Writing to a slot what it holds changes nothing. -/
theorem set_of_getElem? {f : SlotFile SV} {n : Nat} {x : Option (Ctx SV)} (h : f[n]? = some x) : f.set n x = f := by
  obtain ⟨hlt, rfl⟩ := List.getElem?_eq_some_iff.mp h
  exact List.set_getElem_self hlt

theorem absorb_nil {c : Ctx SV} (h : c.buf.length < 64) : absorb compress c [] = c := by
  simp [absorb, blocks_of_lt h, leftover_of_lt h]

variable {compress} {f g : SlotFile SV} {n : Nat} {a : List Byte}

/-- After an UPDATE that succeeds, a second succeeds and leaves the file one UPDATE of both payloads leaves. -/
theorem updateSlot_append (h : updateSlot compress f n a = .ok g) (b : List Byte) :
    ∃ g', updateSlot compress g n b = .ok g' ∧ updateSlot compress f n (a ++ b) = .ok g' := by
  obtain ⟨c, hc, rfl⟩ := updateSlot_eq_ok.mp h
  have hslot := List.getElem?_set_self (a := some (absorb compress c a)) (lt_length_of_getElem? hc)
  refine ⟨_, updateSlot_eq_ok.mpr ⟨_, hslot, rfl⟩, updateSlot_eq_ok.mpr ⟨c, hc, ?_⟩⟩
  rw [List.set_set, absorb_absorb]

/-- Whether UPDATE fails does not depend on its payload. -/
theorem updateSlot_error_of_error {e : Status} (h : updateSlot compress f n a = .error e) (b : List Byte) :
    updateSlot compress f n b = .error e :=
  updateSlot_eq_error.mpr (updateSlot_eq_error.mp h)

end

theorem exec_sha256Update_twice {s t : State} {slot : Nat} {a : List Byte} (h : exec (.sha256Update slot a) s = .next t)
    (b : List Byte) : exec (.sha256Update slot b) t = exec (.sha256Update slot (a ++ b)) s := by
  rcases finishSha_eq_next.mp h with ⟨g, hg, rfl⟩ | ⟨e, he, rfl⟩
  · obtain ⟨g', htwice, honce⟩ := updateSlot_append hg b
    simp only [exec, execSha256Update, htwice, honce]
    rfl
  · simp only [exec, execSha256Update, State.fail_ctxSha, updateSlot_error_of_error he]
    rfl

theorem exec_md5Update_twice {s t : State} {slot : Nat} {a : List Byte} (h : exec (.md5Update slot a) s = .next t)
    (b : List Byte) : exec (.md5Update slot b) t = exec (.md5Update slot (a ++ b)) s := by
  rcases finishMd5_eq_next.mp h with ⟨g, hg, rfl⟩ | ⟨e, he, rfl⟩
  · obtain ⟨g', htwice, honce⟩ := updateSlot_append hg b
    simp only [exec, execMd5Update, htwice, honce]
    rfl
  · simp only [exec, execMd5Update, State.fail_ctxMd5, updateSlot_error_of_error he]
    rfl

/-- Settles O46: ABSORB of both payloads is one fold over the blocks of both; a failed UPDATE fails again. -/
theorem chunkingTransparency : Obligations.ChunkingTransparency :=
  ⟨⟨absorb_absorb sha256Compress, absorb_absorb md5Compress⟩,
    fun _ _ _ _ b => ⟨fun h => exec_sha256Update_twice h b, fun h => exec_md5Update_twice h b⟩⟩

/-- A command that reads slot n, and on its context only answers OK, leaves everything else; the status tells whether the slot
exists and is valid. -/
theorem afterRead_ok_eq {SV : Type} (s : State) (f : SlotFile SV) (n : Nat) {effect : Ctx SV → State}
    (heffect : ∀ c, f[n]? = some (some c) → effect c = { s with rsp := some ⟨0x00, []⟩ }) :
    s.afterRead f[n]? effect =
      { s with rsp := some ⟨if f.length ≤ n then 0x03 else if (f[n]?.join).isSome then 0x00 else 0x04, []⟩ } := by
  match hx : f[n]? with
  | none =>
    rw [if_pos (List.getElem?_eq_none_iff.mp hx)]
    rfl
  | some none =>
    rw [if_neg (Nat.not_le_of_lt (lt_length_of_getElem? hx))]
    rfl
  | some (some c) =>
    rw [if_neg (Nat.not_le_of_lt (lt_length_of_getElem? hx))]
    exact heffect c hx

/-- Settles O47: absorbing nothing gives the context back, so UPDATE writes what the slot already holds. -/
theorem emptyUpdateChangesNothing : Obligations.EmptyUpdateChangesNothing := by
  constructor
  · intro s slot hbuf
    refine (finishSha_readSlot s s.ctxSha slot _).trans (congrArg _ (afterRead_ok_eq s s.ctxSha slot fun c hc => ?_))
    rw [absorb_nil sha256Compress (hbuf c hc), writeSlot, set_of_getElem? hc]
  · intro s slot hbuf
    refine (finishMd5_readSlot s s.ctxMd5 slot _).trans (congrArg _ (afterRead_ok_eq s s.ctxMd5 slot fun c hc => ?_))
    rw [absorb_nil md5Compress (hbuf c hc), writeSlot, set_of_getElem? hc]

/-! ## Finalization writes no state (R203, R204, R218, R219) -/

/-- An instruction that writes no slot changes the response only. -/
theorem eq_withRsp_of_slotWritten_none {i : Instr} {s t : State} (hw : i.slotWritten = none) (h : exec i s = .next t) :
    ∃ r, t = { s with rsp := some r } := by
  cases slotEffect_of_exec h with
  | response r => exact ⟨r, rfl⟩
  | sha n c halg hn | md5 n c halg hn => cases hw.symm.trans hn

/-- Settles O29: DIGEST and HEXDIGEST write no slot. -/
theorem digestWritesNoState : Obligations.DigestWritesNoState := by
  intro s t slot h
  obtain ⟨r, rfl⟩ : ∃ r, t = { s with rsp := some r } := by
    rcases h with h | h | h | h <;> exact eq_withRsp_of_slotWritten_none rfl h
  rfl

/-- Settles O49: only the response is new after a DIGEST or HEXDIGEST, and no command's outcome depends on it. -/
theorem idempotentFinalization : Obligations.IdempotentFinalization := by
  intro s t slot i hi h
  have hw : i.slotWritten = none := by
    rcases hi with rfl | rfl | rfl | rfl <;> rfl
  obtain ⟨r, rfl⟩ := eq_withRsp_of_slotWritten_none hw h
  have hsame (j : Instr) : exec j { s with rsp := some r } = exec j s := outcomeIgnoresOldResponse j s _
  exact ⟨(hsame i).trans h, hsame⟩

/-- Settles O53: DIGEST answers the finalization of the context, which is the digest of the stream it holds. -/
theorem digestOfStream : Obligations.DigestOfStream := by
  constructor
  · intro s slot c m hc hm
    rw [← hm.finalizeSha_eq]
    exact Succeeds.exec_eq (i := .sha256Digest slot) ⟨c, hc, rfl⟩
  · intro s slot c m hc hm
    rw [← hm.finalizeMd5_eq]
    exact Succeeds.exec_eq (i := .md5Digest slot) ⟨c, hc, rfl⟩

/-! ## HEX (R205, R212, R213) -/

theorem nib_eq_digit (v : BitVec 4) :
    nib v = BitVec.ofNat 8 (if v.toNat < 10 then 0x30 + v.toNat else 0x61 + (v.toNat - 10)) := by
  revert v
  decide

theorem nib_range (v : BitVec 4) :
    (0x30 ≤ (nib v).toNat ∧ (nib v).toNat ≤ 0x39) ∨ (0x61 ≤ (nib v).toNat ∧ (nib v).toNat ≤ 0x66) := by
  revert v
  decide

theorem highNibble_toNat (b : Byte) : (b.extractLsb' 4 4).toNat = b.toNat / 16 := by
  rw [BitVec.extractLsb'_toNat, Nat.shiftRight_eq_div_pow]
  omega

theorem lowNibble_toNat (b : Byte) : (b.extractLsb' 0 4).toNat = b.toNat % 16 := by
  rw [BitVec.extractLsb'_toNat, Nat.shiftRight_zero]

theorem hex_cons (b : Byte) (bs : List Byte) :
    hex (b :: bs) = nib (b.extractLsb' 4 4) :: nib (b.extractLsb' 0 4) :: hex bs := rfl

/-- Byte k of a sequence gives characters 2k and 2k+1 of its HEX. -/
theorem hex_getElem? {bs : List Byte} {k : Nat} {b : Byte} (h : bs[k]? = some b) :
    (hex bs)[2 * k]? = some (nib (b.extractLsb' 4 4)) ∧ (hex bs)[2 * k + 1]? = some (nib (b.extractLsb' 0 4)) := by
  induction bs generalizing k with
  | nil => simp at h
  | cons b' bs ih =>
    rw [hex_cons]
    cases k with
    | zero =>
      obtain rfl : b' = b := by simpa using h
      exact ⟨rfl, rfl⟩
    | succ k => exact ih h

theorem exists_nib_of_mem_hex {bs : List Byte} {b : Byte} (h : b ∈ hex bs) : ∃ v, b = nib v := by
  obtain ⟨b', -, hb⟩ := List.mem_flatMap.mp h
  rcases List.mem_pair.mp hb with rfl | rfl <;> exact ⟨_, rfl⟩

/-- Settles O41: each byte gives its two nibbles' characters, and a nibble's character is its digit's. -/
theorem hexFormat : Obligations.HexFormat := by
  refine fun bs => ⟨hex_length bs, fun k b hb => ?_⟩
  rw [← highNibble_toNat, ← lowNibble_toNat, ← nib_eq_digit, ← nib_eq_digit]
  exact hex_getElem? hb

/-- Where one command answers data and another HEX of it, or both fail alike, the responses differ by HEX of the data. -/
theorem answer_map_hex_rsp {s t u : State} {r : Except Status (List Byte)} (ht : s.answer r = .next t)
    (hu : s.answer (r.map hex) = .next u) : u.rsp = t.rsp.map fun r => ⟨r.status, hex r.data⟩ := by
  cases r <;> cases ht <;> cases hu <;> rfl

theorem hexdigestSlot_eq_map_digestSlot {SV : Type} (fin : Ctx SV → List Byte) (f : SlotFile SV) (n : Nat) :
    hexdigestSlot fin f n = (digestSlot fin f n).map hex := by
  rw [hexdigestSlot, digestSlot]
  cases readSlot f n <;> rfl

/-- Settles O44: HEXDIGEST answers HEX of DIGEST's result, and HEX has characters of nibbles only. -/
theorem hexdigestIsHexOfDigest : Obligations.HexdigestIsHexOfDigest := by
  intro s t u slot h
  have hrsp : u.rsp = t.rsp.map fun r => ⟨r.status, hex r.data⟩ := by
    rcases h with ⟨ht, hu⟩ | ⟨ht, hu⟩
    · rw [exec, execSha256Hexdigest, hexdigestSlot_eq_map_digestSlot] at hu
      exact answer_map_hex_rsp ht hu
    · rw [exec, execMd5Hexdigest, hexdigestSlot_eq_map_digestSlot] at hu
      exact answer_map_hex_rsp ht hu
  refine ⟨hrsp, fun r hr b hb => ?_⟩
  obtain ⟨r', -, rfl⟩ := Option.map_eq_some_iff.mp (hrsp.symm.trans hr)
  obtain ⟨v, rfl⟩ := exists_nib_of_mem_hex hb
  exact nib_range v

/-! ## Independence of a copy (R217) -/

theorem execAll_cons_eq_some {i : Instr} {is : List Instr} {s u : State} (h : execAll (i :: is) s = some u) :
    ∃ t, exec i s = .next t ∧ execAll is t = some u := by
  obtain ⟨t, ht⟩ := exec_next i s
  rw [execAll, ht] at h
  exact ⟨t, ht, h⟩

/-- Commands of one algorithm addressed to one slot leave every other slot of its file as it was, however many they are. -/
theorem sameSlot_execAll {alg : Alg} {slot n : Nat} (hne : slot ≠ n) {is : List Instr} {s u : State}
    (haddr : ∀ j ∈ is, j.alg = alg ∧ j.slot = slot) (h : execAll is s = some u) : SameSlot alg n s u := by
  induction is generalizing s with
  | nil =>
    cases h
    exact SameSlot.refl alg n _
  | cons i is ih =>
    obtain ⟨t, hi, hrest⟩ := execAll_cons_eq_some h
    obtain ⟨-, hslot⟩ := haddr i List.mem_cons_self
    have hfirst : SameSlot alg n s t :=
      (slotEffect_of_exec hi).sameSlot fun ⟨_, hw⟩ => hne (hslot.symm.trans (slotWritten_kind hw).1.symm)
    exact hfirst.trans (ih (fun j hj => haddr j (List.mem_cons_of_mem i hj)) hrest)

/-- Settles O51: after the COPY both slots hold the context, and commands addressed to one never write the other. -/
theorem copyIndependence : Obligations.CopyIndependence := by
  constructor
  · intro s t u d r c later hne hc hd hcopy hlater
    rw [copyCompletes.1 s d r c hd hc] at hcopy
    cases hcopy
    refine ⟨fun h => ?_, fun h => ?_⟩
    · exact Eq.trans (sameSlot_execAll hne h hlater).symm ((List.getElem?_set_ne hne).trans hc)
    · exact Eq.trans (sameSlot_execAll hne.symm h hlater).symm (List.getElem?_set_self hd)
  · intro s t u d r c later hne hc hd hcopy hlater
    rw [copyCompletes.2 s d r c hd hc] at hcopy
    cases hcopy
    refine ⟨fun h => ?_, fun h => ?_⟩
    · exact Eq.trans (sameSlot_execAll hne h hlater).symm ((List.getElem?_set_ne hne).trans hc)
    · exact Eq.trans (sameSlot_execAll hne.symm h hlater).symm (List.getElem?_set_self hd)

end Sys2Proof.Machine

/-! PROOFS of 60_exceptions: the idle step (R267), the causes of ILLEGAL_COMMAND (R253), of BAD_SLOT and of NO_CONTEXT (R254,
R255), their order (R257), and what a failed command leaves (R251, R252, R258). -/

namespace Sys2Proof.Machine

/-! ## The idle step (R267) -/

/-- Settles O7: a step that takes no input from the port is idle. -/
theorem idleStepHoldsState : Obligations.IdleStepHoldsState :=
  fun _ hin => step_of_nil hin

/-! ## How a decoded command ends (R254, R255, R258) -/

/-- An instruction that succeeds names only slots that exist, and the slot it reads is valid. -/
theorem Succeeds.operands_ok {s t : State} {i : Instr} (h : Succeeds s t i) :
    (∀ n ∈ i.slots, n < s.nslot i.alg) ∧ ∀ n, i.slotRead = some n → s.valid i.alg n = true := by
  cases i with
  | sha256Init n | md5Init n =>
    obtain ⟨hn, -⟩ := h
    exact ⟨List.forall_mem_singleton.mpr hn, nofun⟩
  | sha256Update n | sha256Digest n | sha256Hexdigest n =>
    obtain ⟨c, hc, -⟩ := h
    exact ⟨List.forall_mem_singleton.mpr (lt_length_of_getElem? hc),
      fun m hm => Option.some.inj hm ▸ valid_sha_of_getElem? hc⟩
  | md5Update n | md5Digest n | md5Hexdigest n =>
    obtain ⟨c, hc, -⟩ := h
    exact ⟨List.forall_mem_singleton.mpr (lt_length_of_getElem? hc),
      fun m hm => Option.some.inj hm ▸ valid_md5_of_getElem? hc⟩
  | sha256Copy d r =>
    obtain ⟨hd, c, hc, -⟩ := h
    exact ⟨List.forall_mem_cons.mpr ⟨hd, List.forall_mem_singleton.mpr (lt_length_of_getElem? hc)⟩,
      fun m hm => Option.some.inj hm ▸ valid_sha_of_getElem? hc⟩
  | md5Copy d r =>
    obtain ⟨hd, c, hc, -⟩ := h
    exact ⟨List.forall_mem_cons.mpr ⟨hd, List.forall_mem_singleton.mpr (lt_length_of_getElem? hc)⟩,
      fun m hm => Option.some.inj hm ▸ valid_md5_of_getElem? hc⟩

theorem slots_lt_iff (i : Instr) (k : Nat) : (∀ n ∈ i.slots, n < k) ↔ ¬ ∃ n ∈ i.slots, k ≤ n := by
  simp

/-- The three ways a decoded command ends, each with what it says of the slots named. -/
inductive Ending (s : State) (i : Instr) : State → Prop
  | badSlot (hslot : ∃ n ∈ i.slots, s.nslot i.alg ≤ n) : Ending s i (s.fail .badSlot)
  | noContext (hslots : ∀ n ∈ i.slots, n < s.nslot i.alg) (hread : ∃ n, i.slotRead = some n ∧ s.valid i.alg n = false) :
      Ending s i (s.fail .noContext)
  | success (t : State) (data : List Byte) (hslots : ∀ n ∈ i.slots, n < s.nslot i.alg)
      (hread : ∀ n, i.slotRead = some n → s.valid i.alg n = true) (hrsp : t.rsp = some ⟨0x00, data⟩) : Ending s i t

theorem ending_of_exec {i : Instr} {s t : State} (h : exec i s = .next t) : Ending s i t := by
  rcases exec_inversion h with hs | ⟨e, ⟨rfl, hslot⟩ | ⟨rfl, hslots, hread⟩, rfl⟩
  · obtain ⟨data, hrsp⟩ := hs.rsp_eq
    obtain ⟨hslots, hread⟩ := hs.operands_ok
    exact .success t data hslots hread hrsp
  · exact .badSlot hslot
  · exact .noContext hslots hread

/-- Settles O26: of the three endings, only BAD_SLOT has an operand that names no slot, and only it has code 0x3. -/
theorem badSlotExactly : Obligations.BadSlotExactly := by
  intro i s t h
  cases ending_of_exec h with
  | badSlot hslot => exact iff_of_true hslot rfl
  | noContext hslots =>
    exact iff_of_false ((slots_lt_iff i _).mp hslots) (by simp)
  | success t data hslots _ hrsp =>
    exact iff_of_false ((slots_lt_iff i _).mp hslots) (by simp [hrsp])

/-- Settles O27: of the three endings, only NO_CONTEXT reads an invalid slot with every operand in range, and only it has code
0x4. -/
theorem noContextExactly : Obligations.NoContextExactly := by
  intro i s t h
  cases ending_of_exec h with
  | badSlot hslot => exact iff_of_false (fun ⟨hslots, _⟩ => (slots_lt_iff i _).mp hslots hslot) (by simp)
  | noContext hslots hread => exact iff_of_true ⟨hslots, hread⟩ rfl
  | success t data _ hread hrsp =>
    exact iff_of_false (fun ⟨_, n, hn, hv⟩ => by simp [hread n hn] at hv) (by simp [hrsp])

/-! ## How a command at the port ends (R251, R252, R257, R258) -/

/-- A command at the port fails with one of three errors, and then only its response is new, or it answers status 0x00. -/
theorem step_command_inversion {s t : State} {c : Command} {rest : List PortInput} (hin : s.inputs = .command c :: rest)
    (h : step s = .next t) :
    (∃ e ∈ [Status.illegalCommand, .badSlot, .noContext], t = State.fail { s with inputs := rest } e) ∨
      ∃ data, t.rsp = some ⟨0x00, data⟩ := by
  match hd : decode c with
  | .illegalCommand why =>
    rw [step_of_illegal hin hd] at h
    cases h
    exact .inl ⟨_, by decide, rfl⟩
  | .instr i =>
    rw [step_of_instr hin hd] at h
    cases ending_of_exec h with
    | badSlot | noContext => exact .inl ⟨_, by decide, rfl⟩
    | success t data _ _ hrsp => exact .inr ⟨data, hrsp⟩

/-- Settles O10: a status other than 0x00 is that of an error, which replaces the response only. -/
theorem failedCommandChangesNothing : Obligations.FailedCommandChangesNothing := by
  intro s t c rest r hin h hr hne
  rcases step_command_inversion hin h with ⟨e, -, rfl⟩ | ⟨data, hrsp⟩
  · obtain rfl := Option.some.inj hr
    rfl
  · obtain rfl := Option.some.inj (hr.symm.trans hrsp)
    exact absurd rfl hne

theorem Status.byte_highNibble (e : Status) : e.byte.extractLsb' 4 4 = 0 := by
  cases e <;> rfl

/-- Settles O11: the status is the code of one of the three errors, or 0x00. -/
theorem statusCodesProduced : Obligations.StatusCodesProduced := by
  intro s t c rest hin h
  rcases step_command_inversion hin h with ⟨e, he, rfl⟩ | ⟨data, hrsp⟩
  · have hcodes : ∀ e ∈ [Status.illegalCommand, .badSlot, .noContext],
        e.byte = 0x02 ∨ e.byte = 0x03 ∨ e.byte = 0x04 := by decide
    exact ⟨_, rfl, e.byte_highNibble, .inr (hcodes e he)⟩
  · exact ⟨_, hrsp, Status.ok.byte_highNibble, .inl rfl⟩

theorem exists_slot_ge_iff (i : Instr) (k : Nat) :
    (∃ n ∈ i.slots, k ≤ n) ↔ k ≤ i.slot ∨ i.source.any (fun n => k ≤ n) = true := by
  simp [Instr.slots, Option.any_eq_true]

theorem slotRead_any_invalid_iff (i : Instr) (s : State) :
    i.slotRead.any (fun n => !s.valid i.alg n) = true ↔ ∃ n, i.slotRead = some n ∧ s.valid i.alg n = false := by
  simp [Option.any_eq_true]

/-- R257's order among the errors of a decoded command: SLOT is checked, then SRC, then VALID of the slot read. -/
theorem exec_status_priority {i : Instr} {s t : State} (h : exec i s = .next t) :
    ∃ r, t.rsp = some r ∧ r.status =
      if s.nslot i.alg ≤ i.slot then 0x03
      else if i.source.any (fun n => s.nslot i.alg ≤ n) = true then 0x03
      else if i.slotRead.any (fun n => !s.valid i.alg n) = true then 0x04
      else 0x00 := by
  rw [← ite_or]
  cases ending_of_exec h with
  | badSlot hslot => exact ⟨_, rfl, (if_pos ((exists_slot_ge_iff i _).mp hslot)).symm⟩
  | noContext hslots hread =>
    have hexist := mt (exists_slot_ge_iff i _).mpr ((slots_lt_iff i _).mp hslots)
    exact ⟨_, rfl, by rw [if_neg hexist, if_pos ((slotRead_any_invalid_iff i s).mpr hread)]; rfl⟩
  | success t data hslots hread hrsp =>
    have hexist := mt (exists_slot_ge_iff i _).mpr ((slots_lt_iff i _).mp hslots)
    have hvalid : ¬ i.slotRead.any (fun n => !s.valid i.alg n) = true := fun hany => by
      obtain ⟨n, hn, hv⟩ := (slotRead_any_invalid_iff i s).mp hany
      exact absurd hv (by simp [hread n hn])
    exact ⟨_, hrsp, by rw [if_neg hexist, if_neg hvalid]⟩

/-- Settles O9: the decoder comes first, and a decoded command's status is R257's choice. -/
theorem errorPriority : Obligations.ErrorPriority := by
  intro s c rest hin
  match hd : decode c with
  | .illegalCommand why => exact ⟨_, _, step_of_illegal hin hd, rfl, fun _ _ => rfl, nofun⟩
  | .instr i =>
    obtain ⟨t, ht⟩ := exec_next i { s with inputs := rest }
    obtain ⟨r, hr, hstatus⟩ := exec_status_priority ht
    refine ⟨t, r, (step_of_instr hin hd).trans ht, hr, nofun, fun j hj => ?_⟩
    cases hj
    exact hstatus

/-! ## ILLEGAL_COMMAND (R253) -/

theorem ofCode_eq_none_iff (code : BitVec 4) : Op.ofCode code = none ↔ code.toNat = 0 ∨ 6 ≤ code.toNat := by
  revert code
  decide

theorem code_toNat_bounds (op : Op) : 1 ≤ op.code.toNat ∧ op.code.toNat ≤ 5 := by
  cases op <;> decide

theorem code_toNat_ne_five_iff (op : Op) : op.code.toNat ≠ 5 ↔ op ≠ .copy := by
  cases op <;> decide

theorem code_toNat_ne_two_iff (op : Op) : op.code.toNat ≠ 2 ↔ op ≠ .update := by
  cases op <;> decide

/-- A command with an operation's OP fails to decode exactly when one of its other fields is illegal for that operation. -/
theorem decode_illegal_iff_of_opField {c : Command} {op : Op} (hop : opField c.word = op.code) :
    (∃ why, decode c = .illegalCommand why) ↔
      IllegalFields op (rsv1Field c.word) (srcField c.word) (rsv0Field c.word) c.payload := by
  have hc : c = ⟨packFields (rsv1Field c.word) (srcField c.word) (slotField c.word) (rsv0Field c.word)
      (Alg.ofBit (algField c.word)).bit op.code, c.payload⟩ := by
    rw [bit_ofBit, ← hop, pack_fields]
  constructor
  · rintro ⟨why, hwhy⟩
    by_contra hlegal
    rw [hc, decode_pack_of_legal hlegal] at hwhy
    cases hwhy
  · intro hillegal
    rw [hc]
    exact decode_pack_of_illegal hillegal

/-- The four causes of R253, by the fields' values. -/
theorem decode_illegal_iff (c : Command) :
    (∃ why, decode c = .illegalCommand why) ↔
      ((opField c.word).toNat = 0 ∨ 6 ≤ (opField c.word).toNat) ∨ rsv0Field c.word ≠ 0 ∨ rsv1Field c.word ≠ 0 ∨
        ((opField c.word).toNat ≠ 5 ∧ srcField c.word ≠ 0) ∨ ((opField c.word).toNat ≠ 2 ∧ c.payload ≠ []) := by
  match hop : Op.ofCode (opField c.word) with
  | none => exact iff_of_true ⟨.reservedOp, by rw [decode, hop]⟩ (.inl ((ofCode_eq_none_iff _).mp hop))
  | some op =>
    have hcode := ofCode_eq_some hop
    obtain ⟨hlo, hhi⟩ := code_toNat_bounds op
    have hreserved : ¬ (op.code.toNat = 0 ∨ 6 ≤ op.code.toNat) := by omega
    rw [decode_illegal_iff_of_opField hcode, hcode, or_iff_right hreserved, IllegalFields, code_toNat_ne_five_iff,
      code_toNat_ne_two_iff]
    exact or_left_comm

theorem exec_rsp_ne_illegalCommand {i : Instr} {s t : State} (h : exec i s = .next t) : t.rsp ≠ some ⟨0x02, []⟩ := by
  cases ending_of_exec h with
  | badSlot | noContext => simp
  | success t data _ _ hrsp => simp [hrsp]

/-- Settles O5: a command that fails to decode answers 0x02 and changes nothing else; one that decodes never answers 0x02. -/
theorem illegalCommandExactly : Obligations.IllegalCommandExactly := by
  intro s c rest hin
  refine (decode_illegal_iff c).symm.trans ⟨fun ⟨why, hd⟩ => step_of_illegal hin hd, fun h => ?_⟩
  match hd : decode c with
  | .illegalCommand why => exact ⟨why, rfl⟩
  | .instr i => exact absurd rfl (exec_rsp_ne_illegalCommand ((step_of_instr hin hd).symm.trans h))

end Sys2Proof.Machine

/-! PROOFS of 70_reset_and_hazards: what a reset leaves (R280, R32), a reset right after a command (R282), commands before the first
INIT (R283) and a COPY of a slot onto itself (R285). -/

namespace Sys2Proof.Machine

/-! ## The reset event (R280, R32) -/

@[simp] theorem performReset_valid (s : State) (alg : Alg) (n : Nat) : s.performReset.valid alg n = false := by
  cases alg <;> exact congrArg Option.isSome (join_getElem?_replicate_none _ n)

/-- Settles O13: the step performs the reset, which invalidates both files at their lengths and removes the response. -/
theorem resetEventClearsEverySlot : Obligations.ResetEventClearsEverySlot :=
  fun _ _ hin => ⟨_, step_of_reset hin, performReset_valid _, nslot_performReset _, rfl, rfl⟩

/-! ## A reset right after a command (R282) -/

/-- All that a reset keeps of a state is its slot counts and what is presented at its port. -/
theorem performReset_congr {s t : State} (hcount : ∀ alg, s.nslot alg = t.nslot alg) (hin : s.inputs = t.inputs) :
    s.performReset = t.performReset := by
  have hsha : s.ctxSha.length = t.ctxSha.length := hcount .sha256
  have hmd5 : s.ctxMd5.length = t.ctxMd5.length := hcount .md5
  simp only [State.performReset, hsha, hmd5, hin]

/-- A command, decoded or not, leaves at the port what was presented after it. -/
theorem inputs_of_step_command {s t : State} {c : Command} {rest : List PortInput} (hin : s.inputs = .command c :: rest)
    (h : step s = .next t) : t.inputs = rest := by
  match hd : decode c with
  | .illegalCommand why =>
    rw [step_of_illegal hin hd] at h
    cases h
    rfl
  | .instr i =>
    rw [step_of_instr hin hd] at h
    exact (slotEffect_of_exec h).inputs_eq

/-- Settles O14: the command keeps the slot counts and the inputs after it, and a reset keeps nothing else. -/
theorem resetOverridesCommandInProgress : Obligations.ResetOverridesCommandInProgress := by
  intro s c rest
  obtain ⟨t, ht⟩ := stepAlwaysCompletes { s with inputs := .command c :: .reset :: rest }
  have htin : t.inputs = .reset :: rest := inputs_of_step_command rfl ht
  have hcount := slotCountsNeverChange _ t ht
  have hsame : State.performReset { t with inputs := rest } = State.performReset { s with inputs := rest } :=
    performReset_congr hcount rfl
  refine ⟨t, _, ht, step_of_reset htin, ?_, rfl⟩
  rw [hsame]
  exact step_of_reset rfl

/-! ## Before the first INIT (R283, R255) -/

/-- Only INIT reads no slot. -/
theorem slotRead_eq_none_iff {i : Instr} : i.slotRead = none ↔ ∃ slot, i = .sha256Init slot ∨ i = .md5Init slot := by
  cases i <;> simp [Instr.slotRead]

/-- Settles O15: an instruction that succeeds finds the slot it reads valid, so here it reads none. -/
theorem onlyInitSucceedsBeforeInit : Obligations.OnlyInitSucceedsBeforeInit := by
  intro s t i r hinvalid h hr hok
  obtain ⟨-, hs⟩ := (exec_status h hr).resolve_right fun ⟨hne, _⟩ => hne hok
  obtain ⟨-, hread⟩ := hs.operands_ok
  refine slotRead_eq_none_iff.mp (Option.eq_none_iff_forall_ne_some.mpr fun n hn => ?_)
  exact absurd (hread n hn) (by simp [hinvalid])

/-! ## COPY of a slot onto itself (R285, R214, R215) -/

/-- Settles O50: on success the slot is given the context it holds, and on failure only the response is new. -/
theorem copyOntoItself : Obligations.CopyOntoItself := by
  intro s t slot h
  rcases h with h | h
  · rcases exec_inversion h with ⟨-, c, hc, rfl⟩ | ⟨e, -, rfl⟩
    · rw [set_of_getElem? hc]
    · rfl
  · rcases exec_inversion h with ⟨-, c, hc, rfl⟩ | ⟨e, -, rfl⟩
    · rw [set_of_getElem? hc]
    · rfl

end Sys2Proof.Machine
